-- ==== Sys2Proof/Word.lean ====
section
/-! DEFINITION. Word.lean: the widths of the hardware's data (R8, R23, R51) and the carrier of its binary32 values (R9). -/

namespace Sys2Proof

/-- A register of the block: 32 bits (R8, R23). -/
abbrev Word := BitVec 32

/-- A byte of `MEM`, of `BLK`, of a message (R51). -/
abbrev Byte := BitVec 8

/-- A byte offset into the register space of 8192 bytes (R23). -/
abbrev RegOffset := BitVec 13

/-- A real of the hardware, counted in units of `2^-149`: the integer `n` stands for `n · 2^-149`.
Every finite binary32 value is such a multiple, and so is every exact sum the hardware takes (R9, R11).
There is no signed zero, as R9 allows (log 10). -/
abbrev F32 := Int

end Sys2Proof
end

