-- ==== Sys2Proof/Syntax.lean ====
section
/-! DEFINITION. Syntax.lean: the eleven commands of R83, one constructor per row of spec/opcode_table.json. -/

namespace Sys2Proof

/-- A command of the block (R83). All operands but `SYNTH`'s pattern are in the operand registers (R80). -/
inductive Instr where
  /-- `NOP`, R210 -/
  | nop
  /-- `CLRERR`, R211 -/
  | clrerr
  /-- `TBLINIT`, R100 -/
  | tblinit
  /-- `SYNTH imm8`, R130: the pattern is the unsigned number in bits 15:8 (R85) -/
  | synth (pattern : Nat)
  /-- `EXTRACT`, R140 -/
  | extract
  /-- `ENCF`, R152 -/
  | encf
  /-- `DECF`, R155 -/
  | decf
  /-- `SHA256`, R170 -/
  | sha256
  /-- `CRC32`, R192 -/
  | crc32
  /-- `PKTCRC`, R194 -/
  | pktcrc
  /-- `PKTVFY`, R196 -/
  | pktvfy
deriving DecidableEq, Repr

end Sys2Proof
end

