-- ==== Sys2Proof/WellFormed.lean ====
section
/-! DEFINITION. WellFormed.lean: which terms of `Instr` have an encoding. -/

namespace Sys2Proof

/-- The immediate of `SYNTH` is an unsigned number 0 to 255; every value of it is legal as an encoding
(R85). No other command has an operand in its word (R80). -/
def Instr.wellFormed : Instr → Bool
  | .nop => true
  | .clrerr => true
  | .tblinit => true
  | .synth pattern => decide (pattern < 256)
  | .extract => true
  | .encf => true
  | .decf => true
  | .sha256 => true
  | .crc32 => true
  | .pktcrc => true
  | .pktvfy => true

end Sys2Proof
end

