-- ==== Sys2Proof/Decode.lean ====
section
/-! DEFINITION. Decode.lean: the decoder of R89, total on every 32-bit word, and the encoder of R80 and R83. -/

namespace Sys2Proof

/-- Why a word is no command (R89). Each of them ends in `ERR_ILLEGAL` (R84); the names are the model's
(log 15). -/
inductive DecodeError where
  /-- bits 31:16 are not all zero -/
  | highBitsNotZero
  /-- bits 7:0 are none of the eleven opcodes of R83 -/
  | unlistedOpcode
  /-- a format Z opcode with bits 15:8 not all zero -/
  | immediateNotZero
deriving DecidableEq, Repr

/-- Bits 7:0 of a command word, in both formats (R80). -/
def opcodeField (c : Word) : Nat := (c.extractLsb' 0 8).toNat

/-- Bits 15:8: `imm8` of format I, must be zero in format Z (R80, R85). -/
def imm8Field (c : Word) : Nat := (c.extractLsb' 8 8).toNat

/-- Bits 31:16: must be zero in both formats (R80). -/
def highField (c : Word) : Nat := (c.extractLsb' 16 16).toNat

/-- A format Z command is legal only with bits 15:8 zero (R89). -/
def formatZ (imm8 : Nat) (i : Instr) : Except DecodeError Instr :=
  if imm8 = 0 then .ok i else .error .immediateNotZero

/-- `decode(c)` of R89 with the opcodes of R83. -/
def decode (c : Word) : Except DecodeError Instr :=
  if highField c ≠ 0 then .error .highBitsNotZero
  else
    match opcodeField c with
    | 0x01 => formatZ (imm8Field c) .nop
    | 0x02 => formatZ (imm8Field c) .clrerr
    | 0x10 => formatZ (imm8Field c) .tblinit
    | 0x11 => .ok (.synth (imm8Field c))
    | 0x12 => formatZ (imm8Field c) .extract
    | 0x20 => formatZ (imm8Field c) .encf
    | 0x21 => formatZ (imm8Field c) .decf
    | 0x30 => formatZ (imm8Field c) .sha256
    | 0x40 => formatZ (imm8Field c) .crc32
    | 0x41 => formatZ (imm8Field c) .pktcrc
    | 0x42 => formatZ (imm8Field c) .pktvfy
    | _ => .error .unlistedOpcode

/-- The opcode column of R83. -/
def Instr.opcode : Instr → Byte
  | .nop => 0x01#8
  | .clrerr => 0x02#8
  | .tblinit => 0x10#8
  | .synth _ => 0x11#8
  | .extract => 0x12#8
  | .encf => 0x20#8
  | .decf => 0x21#8
  | .sha256 => 0x30#8
  | .crc32 => 0x40#8
  | .pktcrc => 0x41#8
  | .pktvfy => 0x42#8

/-- Bits 15:8 of a command's word: `imm8` of `SYNTH`, zero in format Z (R80, R85). -/
def Instr.imm8 : Instr → Byte
  | .nop => 0#8
  | .clrerr => 0#8
  | .tblinit => 0#8
  | .synth pattern => BitVec.ofNat 8 pattern
  | .extract => 0#8
  | .encf => 0#8
  | .decf => 0#8
  | .sha256 => 0#8
  | .crc32 => 0#8
  | .pktcrc => 0#8
  | .pktvfy => 0#8

/-- The word of a command (R80): 16 zero bits, `imm8`, the opcode. -/
def encode (i : Instr) : Word := (0#16 ++ i.imm8 ++ i.opcode : BitVec 32)

/-- The `mask` column of R83. -/
def Instr.mask : Instr → Word
  | .nop => 0xFFFFFFFF#32
  | .clrerr => 0xFFFFFFFF#32
  | .tblinit => 0xFFFFFFFF#32
  | .synth _ => 0xFFFF00FF#32
  | .extract => 0xFFFFFFFF#32
  | .encf => 0xFFFFFFFF#32
  | .decf => 0xFFFFFFFF#32
  | .sha256 => 0xFFFFFFFF#32
  | .crc32 => 0xFFFFFFFF#32
  | .pktcrc => 0xFFFFFFFF#32
  | .pktvfy => 0xFFFFFFFF#32

/-- The `match` column of R83. -/
def Instr.matchWord : Instr → Word
  | .nop => 0x00000001#32
  | .clrerr => 0x00000002#32
  | .tblinit => 0x00000010#32
  | .synth _ => 0x00000011#32
  | .extract => 0x00000012#32
  | .encf => 0x00000020#32
  | .decf => 0x00000021#32
  | .sha256 => 0x00000030#32
  | .crc32 => 0x00000040#32
  | .pktcrc => 0x00000041#32
  | .pktvfy => 0x00000042#32

/-- The command that a word of the opcode table stands for: a command is one 32-bit word written to `CMD`
(R80), so the `nbits` low bits of `w` are that word and the bits above them are zero. -/
def decodeTableWord (nbits w : Nat) : Option Instr :=
  let v := w % 2 ^ nbits
  if v < 2 ^ 32 then
    match decode (BitVec.ofNat 32 v) with
    | .ok i => some i
    | .error _ => none
  else none

end Sys2Proof
end

