-- ==== Sys2Proof/Config.lean ====
section
/-! DEFINITION. Config.lean: what is fixed when the hardware is built (R5), and the model's free value. -/

namespace Sys2Proof

/-- The open parameters of a build (R5; 92_eei_decisions.md section 3). Any 32-bit value can be hardwired
as `B` and as the pattern of `S`; an illegal one is refused when the tables are constructed (R26, R101).
A build is carried in `State` and no step changes it (R38, log 2). -/
structure Build where
  /-- What `CFG_B` reads: `B` (R26). -/
  cfgB    : Word
  /-- What `CFG_S` reads: the binary32 pattern of `S` (R26). -/
  cfgS    : Word
  /-- `MEM_SIZE`, the number of bytes of `MEM` (R51). -/
  memSize : Nat
deriving DecidableEq, Repr

/-- The build of `State.reset`: `B = 4` (the reference value of R5), `S = 32.0` and `MEM_SIZE = 0x10000`
(both `OPEN` in R5). DESIGN CHOICE, log 2: unsafe for a statement about `State.reset` alone. -/
def Build.reference : Build :=
  { cfgB := 4#32, cfgS := 0x42000000#32, memSize := 0x10000 }

/-- FREE VALUE (R270, U3, log 6): in the `n`-th command that a reset cuts short, did the store to
address `a` of the command's destination reach `MEM`? Nothing constrains it. -/
opaque Config.storeLanded : Nat → Nat → Bool

end Sys2Proof
end

