-- ==== Sys2Proof/Machine/State.lean ====
section
/-! DEFINITION. State.lean: everything the spec gives the machine (10_state.md), the host's pending moves,
and the machine after reset. -/

namespace Sys2Proof.Machine

/-- The completion codes of R240; `STATUS.ERR` never holds another value (R24). -/
inductive ErrCode where
  /-- `OK`, 0x00 -/
  | ok
  /-- `ERR_ILLEGAL`, 0x01: the word written to `CMD` encodes no command -/
  | illegal
  /-- `ERR_CONFIG`, 0x02 -/
  | config
  /-- `ERR_BOUNDS`, 0x03 -/
  | bounds
  /-- `ERR_OPERAND`, 0x04: the pattern of `SYNTH` is not below `2^B` -/
  | operand
  /-- `ERR_ADDR`, 0x05: a byte range of the command passes `MEM_SIZE` -/
  | addr
  /-- `ERR_OVERLAP`, 0x06 -/
  | overlap
deriving DecidableEq, Repr

/-- The stored fields of `STATUS` (R24). `TBL_VALID` is the presence of the tables (`State.tables`, log 9),
and the reserved bits read as 0 and have no storage. -/
structure Status where
  cfgFault  : Bool
  errSticky : Bool
  err       : ErrCode
deriving DecidableEq, Repr

/-- The eleven registers the host writes and the commands read (R21, R27 to R29). -/
structure OperandRegs where
  fvPtr     : Word
  fvWidth   : Word
  fvHeight  : Word
  fvStride  : Word
  bufPtr    : Word
  bufLen    : Word
  auxPtr    : Word
  auxLen    : Word
  crcSeed   : Word
  crcOffset : Word
  crcSize   : Word
deriving DecidableEq, Repr

/-- The five tables (R33), each row flattened with index `8·x + y` (R109). -/
structure Tables where
  /-- `COS[i][j]` at `8·i + j` (R103) -/
  cos   : List F32
  /-- `DCIMG[k]` (R106) -/
  dcimg : List F32
  /-- `EMB[b][k]`, `B` rows of 64 (R107) -/
  emb   : List (List F32)
  /-- `PROJ[b][k]`, `B` rows of 64 (R108) -/
  proj  : List (List F32)
  /-- `PAT[p][k]`, `2^B` blocks of 64 bytes (R110) -/
  pat   : List (List Byte)
deriving DecidableEq, Repr

/-- `MEM` as (address, byte) pairs in one canonical form (`Memory.wf`); an unlisted address reads
`Memory.blank` (log 3). -/
abbrev Memory := List Host.Cell

/-- The width of a register access. Only `word` is defined (R35). -/
inductive AccessWidth where
  | byte
  | half
  | word
deriving DecidableEq, Repr

/-- What the host can do to the block (R280, R270). -/
inductive HostAction where
  /-- write `value` at a register offset; at `CMD` it issues the command (R25) -/
  | write (width : AccessWidth) (offset : RegOffset) (value : Word)
  /-- read at a register offset -/
  | read (width : AccessWidth) (offset : RegOffset)
  /-- the host stores a byte in `MEM`, between commands -/
  | memWrite (address : Word) (value : Byte)
  /-- the host reads a byte of `MEM`, between commands -/
  | memRead (address : Word)
  /-- the reset input, between commands (R270) -/
  | reset
  /-- the host writes `command` to `CMD` and the reset input comes before the command ends (R270) -/
  | cutCommand (command : Word)
deriving DecidableEq, Repr

/-- The whole machine. -/
structure State where
  /-- the build: `CFG_B`, `CFG_S`, `MEM_SIZE`; no step changes it (R26, R38) -/
  build     : Build
  /-- `STATUS` (R24) -/
  status    : Status
  /-- `FV_*`, `BUF_*`, `AUX_*`, `CRC_*` (R27 to R29) -/
  operands  : OperandRegs
  /-- `RESULT` (R30) -/
  result    : Word
  /-- `DIGEST[0..8]` (R32) -/
  digest    : Vector Word 8
  /-- `BLK[0..64]` (R31) -/
  blk       : Vector Byte 64
  /-- the tables, `none` until they are constructed; `STATUS.TBL_VALID` is 1 when present (R24, R33) -/
  tables    : Option Tables
  /-- `MEM` (R50, R51) -/
  mem       : Memory
  /-- the model's own: the host's moves still to come, oldest first (log 1) -/
  host      : List HostAction
  /-- the model's own: what the host's reads gave back, newest first (log 8) -/
  replies   : List Word
  /-- the model's own: how many commands a reset has cut short, the index of the free value (log 7) -/
  freeCount : Nat
deriving DecidableEq, Repr

/-- Why the machine stops with a fault. -/
inductive Fault where
  /-- Raised by a host access to `MEM` at an address not below `MEM_SIZE`, which does not exist (R51).
  Safe: the model stops where the spec gives no behaviour (log 4). No command raises it. -/
  | hostAddressOutsideMem (address : Nat)
deriving DecidableEq, Repr

/-- Why a step has no meaning. -/
inductive Refusal where
  /-- An instruction that has no meaning yet. Safe. No arm raises it. -/
  | notModelled (mnemonic : String)
  /-- Raised by a register access that is not 32 bits wide or not at a multiple of 4: "not defined by this
  spec; a model refuses it" (R35, U1). Safe (log 5). No command raises it. -/
  | registerAccessUndefined (width : AccessWidth) (offset : RegOffset)
deriving DecidableEq, Repr

/-- `STATUS = 0x00000000` (R37). -/
def Status.reset : Status := { cfgFault := false, errSticky := false, err := .ok }

/-- All operand registers are 0 after reset (R37). -/
def OperandRegs.reset : OperandRegs :=
  { fvPtr := 0, fvWidth := 0, fvHeight := 0, fvStride := 0, bufPtr := 0, bufLen := 0, auxPtr := 0,
    auxLen := 0, crcSeed := 0, crcOffset := 0, crcSize := 0 }

/-- The machine of a given build right after reset with nothing in `MEM` (R37, R271). -/
def State.resetOf (build : Build) : State :=
  { build := build
    status := Status.reset
    operands := OperandRegs.reset
    result := 0
    digest := Vector.replicate 8 0
    blk := Vector.replicate 64 0
    tables := none
    mem := []
    host := []
    replies := []
    freeCount := 0 }

/-- The machine right after reset (R37), of the reference build (log 2), with no host move pending (log 1). -/
def State.reset : State := State.resetOf Build.reference

end Sys2Proof.Machine
end

