-- ==== Sys2Proof/Machine/Flags.lean ====
section
/-! DEFINITION. Flags.lean: the completion codes (R240) and what a command's end does to `STATUS` (R14, R24, R243). -/

namespace Sys2Proof.Machine

/-- The code column of R240. -/
def ErrCode.code : ErrCode → Byte
  | .ok => 0x00#8
  | .illegal => 0x01#8
  | .config => 0x02#8
  | .bounds => 0x03#8
  | .operand => 0x04#8
  | .addr => 0x05#8
  | .overlap => 0x06#8

/-- `STATUS.ERR <- 0`: what `done()` does (R14). -/
def Status.done (st : Status) : Status := { st with err := .ok }

/-- `STATUS.ERR <- code; STATUS.ERR_STICKY <- 1`: what `fail(code)` does (R14, R243). -/
def Status.fail (code : ErrCode) (st : Status) : Status := { st with err := code, errSticky := true }

/-- `STATUS.CFG_FAULT <- 1` (R101). -/
def Status.refuseConfig (st : Status) : Status := { st with cfgFault := true }

/-- `STATUS.ERR_STICKY <- 0` (R211). -/
def Status.clearSticky (st : Status) : Status := { st with errSticky := false }

/-- `STATUS` as the host reads it (R24): `TBL_VALID` in bit 0, `CFG_FAULT` in bit 1, `ERR_STICKY` in bit 2,
`ERR` in bits 15:8, the reserved bits 0. -/
def Status.word (tblValid : Bool) (st : Status) : Word :=
  (0#16 ++ st.err.code ++ 0#5 ++ BitVec.ofBool st.errSticky ++ BitVec.ofBool st.cfgFault
    ++ BitVec.ofBool tblValid : BitVec 32)

end Sys2Proof.Machine
end

