-- ==== Sys2Proof/Machine/Numerics.lean ====
section
/-! DEFINITION. Numerics.lean: binary32 values and their rounding (00_scope.md section 6), byte orders (R7). -/

namespace Sys2Proof.Machine

/-- 1, in units of `2^-149`. -/
def F32.one : F32 := 2 ^ 149

/-- 0.25, in units of `2^-149`. -/
def F32.quarter : F32 := 2 ^ 147

/-- The biased exponent of a binary32 pattern, bits 30:23 (R9). -/
def F32.exponentField (p : Word) : Nat := (p.extractLsb' 23 8).toNat

/-- The fraction of a binary32 pattern, bits 22:0 (R9). -/
def F32.fractionField (p : Word) : Nat := (p.extractLsb' 0 23).toNat

/-- The magnitude of the value of a pattern: a subnormal is its fraction, in units of `2^-149`, and a normal
number is `(2^23 + fraction) · 2^(exponent − 1)` such units (R9). -/
def F32.magnitude (p : Word) : Nat :=
  if exponentField p = 0 then fractionField p
  else (2 ^ 23 + fractionField p) * 2 ^ (exponentField p - 1)

/-- The value of a finite binary32 pattern (R9): the sign is bit 31. -/
def F32.ofBits (p : Word) : F32 :=
  if p.msb then -(F32.magnitude p : Int) else (F32.magnitude p : Int)

/-- The exponent `e` of a magnitude in `F32`, counted from that of the subnormals: the magnitude is
`m · 2^e` units with `m < 2^24` (R9). -/
def F32.scaleOf (n : Nat) : Nat := Nat.log2 n - 23

/-- The binary32 pattern of a value of `F32`; zero is `0x00000000` (R9). With `m · 2^e` the magnitude, the
exponent field of a normal number is `e + 1` and its fraction `m − 2^23`, so that the two fields together
are `e · 2^23 + m`, which is also right for a subnormal number (`e = 0`). -/
def F32.toBits (x : F32) : Word :=
  let n := x.natAbs
  let sign := if x < 0 then 2 ^ 31 else 0
  BitVec.ofNat 32 (sign + scaleOf n * 2 ^ 23 + n / 2 ^ scaleOf n)

/-- `rn` of R10 on the magnitude of a product of two values of `F32`: `n` counts units of `2^-298`, the
answer units of `2^-149`. The elements of `F32` around the value stand `2^shift` units apart; the nearest
is taken, and of two equally near the one whose `m` is even. For a legal `S` no product reaches the
magnitude of an infinity (R12, log 11). -/
def F32.roundMagnitude (n : Nat) : Nat :=
  let shift := max (Nat.log2 n - 23) 149
  let m := n / 2 ^ shift
  let rest := n % 2 ^ shift
  let up := 2 ^ shift < 2 * rest ∨ (2 * rest = 2 ^ shift ∧ m % 2 = 1)
  (if up then m + 1 else m) * 2 ^ (shift - 149)

/-- `rn` of R10 for a value counted in units of `2^-298`. -/
def F32.rn (q : Int) : F32 :=
  if q < 0 then -(F32.roundMagnitude q.natAbs : Int) else (F32.roundMagnitude q.natAbs : Int)

/-- `fmul(a, b) = rn(a · b)` (R10). -/
def F32.fmul (a b : F32) : F32 := F32.rn (a * b)

/-- `to_u8(q) = floor(min(max(q, 0), 255))` (R13). -/
def toU8 (q : F32) : Byte := BitVec.ofNat 8 (min (max q 0) (255 * F32.one) / F32.one).toNat

/-- `LE(v)`: the four bytes of a word, least significant first (R7). -/
def leBytes (v : Word) : List Byte :=
  [v.extractLsb' 0 8, v.extractLsb' 8 8, v.extractLsb' 16 8, v.extractLsb' 24 8]

/-- `LE32(s)`: the word of the first four bytes read little-endian (R7). -/
def le32 (s : List Byte) : Word :=
  s.getD 3 0 ++ s.getD 2 0 ++ s.getD 1 0 ++ s.getD 0 0

/-- `BE(v)`: the four bytes of a word, most significant first (R7). -/
def beBytes (v : Word) : List Byte :=
  [v.extractLsb' 24 8, v.extractLsb' 16 8, v.extractLsb' 8 8, v.extractLsb' 0 8]

/-- `BE32(s)`: the word of the first four bytes read big-endian (R7). -/
def be32 (s : List Byte) : Word :=
  s.getD 0 0 ++ s.getD 1 0 ++ s.getD 2 0 ++ s.getD 3 0

end Sys2Proof.Machine
end

