-- ==== Sys2Proof/Machine/Tables.lean ====
section
/-! DEFINITION. Tables.lean: the five tables of unit dct_basis_precompute (40_tables.md section 2 and 3). -/

namespace Sys2Proof.Machine

open F32 (fmul one quarter)

/-- The patterns of `c_0` to `c_7` (R102). -/
def cosinePatterns : List Word :=
  [0x3F800000#32, 0x3F7B14BE#32, 0x3F6C835E#32, 0x3F54DB31#32,
   0x3F3504F3#32, 0x3F0E39DA#32, 0x3EC3EF15#32, 0x3E47C5C2#32]

/-- `c_k`, the binary32 nearest to `cos(k·π/16)` (R102); the cosine of `8·π/16` is 0. -/
def cosine (k : Nat) : F32 := F32.ofBits (cosinePatterns.getD k 0)

/-- `a0`, the binary32 nearest to `1/√2` (R102). -/
def a0 : F32 := F32.ofBits 0x3F3504F3#32

/-- `α(u)` (R104). -/
def alpha (u : Nat) : F32 := if u = 0 then a0 else one

/-- `COS[i][j]` (R103). -/
def cosEntry (i j : Nat) : F32 :=
  let m := ((2 * i + 1) * j) % 32
  if m < 8 then cosine m
  else if m < 16 then -cosine (16 - m)
  else if m < 24 then -cosine (m - 16)
  else cosine (32 - m)

/-- `EMBED_POSITIONS` (R114). -/
def embedPositions : List (Nat × Nat) := [(0, 1), (1, 0), (1, 1), (0, 2)]

/-- `(u_b, v_b)` (R114). -/
def embedPosition (b : Nat) : Nat × Nat := embedPositions.getD b (0, 0)

/-- `dc_value`, each product rounded, left to right (R105). -/
def dcValue : F32 := fmul (fmul (fmul (fmul quarter a0) a0) (64 * one)) (128 * one)

/-- `dc_image[x][y]` (R106). -/
def dcEntry (x y : Nat) : F32 :=
  fmul (fmul (fmul (fmul (fmul quarter a0) a0) dcValue) (cosEntry x 0)) (cosEntry y 0)

/-- The gain `g_b` for the coefficient strength `S` (R107). -/
def embedGain (S : F32) (b : Nat) : F32 :=
  fmul (fmul (fmul quarter (alpha (embedPosition b).1)) (alpha (embedPosition b).2)) S

/-- `embed_basis[b][x][y]` (R107). -/
def embedEntry (S : F32) (b x y : Nat) : F32 :=
  fmul (fmul (embedGain S b) (cosEntry x (embedPosition b).1)) (cosEntry y (embedPosition b).2)

/-- `proj[b][8·x + y]` (R108). -/
def projEntry (b x y : Nat) : F32 :=
  fmul (cosEntry x (embedPosition b).1) (cosEntry y (embedPosition b).2)

/-- A row of 64 values with flattened index `k = 8·x + y` (R109). -/
def flatten64 {α : Type} (f : Nat → Nat → α) : List α :=
  (List.range 64).map fun k => f (k / 8) (k % 8)

/-- `s_b(p) · v`: plus `v` if bit `B−1−b` of `p` is 1, else minus `v` (R110, R131, R132). -/
def signedBy (B b p : Nat) (v : F32) : F32 := if p.testBit (B - 1 - b) then v else -v

/-- `DCIMG[k] + Σ_b s_b(p) · EMB[b][k]`, exact (R11, R110). -/
def patSum (B : Nat) (dcimg : List F32) (emb : List (List F32)) (p k : Nat) : F32 :=
  dcimg.getD k 0 + ((List.range B).map fun b => signedBy B b p ((emb.getD b []).getD k 0)).sum

/-- `PAT[p][k]` (R110). -/
def patEntry (B : Nat) (dcimg : List F32) (emb : List (List F32)) (p k : Nat) : Byte :=
  toU8 (patSum B dcimg emb p k)

/-- Table construction for the constants `B` and `S` (R101, by R103 to R110). -/
def Tables.construct (B : Nat) (S : F32) : Tables :=
  let dcimg := flatten64 dcEntry
  let emb := (List.range B).map fun b => flatten64 (embedEntry S b)
  { cos := flatten64 cosEntry
    dcimg := dcimg
    emb := emb
    proj := (List.range B).map fun b => flatten64 (projEntry b)
    pat := (List.range (2 ^ B)).map fun p => (List.range 64).map (patEntry B dcimg emb p) }

/-- `B` in {1, 2, 4} (R5, R101, 90_conflicts.md C1). -/
def legalB (cfgB : Word) : Bool := cfgB == 1#32 || cfgB == 2#32 || cfgB == 4#32

/-- `S` is a finite binary32 value greater than zero: not zero, negative, an infinity or a NaN (R5, R26,
R101). -/
def legalS (cfgS : Word) : Bool :=
  !cfgS.msb && decide (F32.exponentField cfgS ≠ 255) && decide (cfgS ≠ 0#32)

end Sys2Proof.Machine

namespace Sys2Proof

open Sys2Proof.Machine

/-- Table construction accepts this build (R101). -/
def Build.legal (b : Build) : Bool := legalB b.cfgB && legalS b.cfgS

/-- `B` as a number (R26). -/
def Build.bits (b : Build) : Nat := b.cfgB.toNat

/-- The tables of a build: they depend on `B` and `S` only (R111). -/
def Build.tables (b : Build) : Tables := Tables.construct b.bits (F32.ofBits b.cfgS)

end Sys2Proof
end

