-- ==== Sys2Proof/Machine/Ops.lean ====
section
/-! DEFINITION. Ops.lean: the operations over memory and registers, the end of a command (`done`, `fail`),
`ensure_tables` and the reset input. -/

namespace Sys2Proof.Machine

/-! ## MEM -/

/-- What an unlisted address of `MEM` reads as. DESIGN CHOICE (log 3): the spec leaves the content at power-up
unspecified (R37). Unsafe for a statement about a run from `State.reset` that reads a byte nothing wrote. -/
def Memory.blank : Byte := 0#8

/-- `MemRead(addr, 1)` (R14): the last byte written to the address (R54). -/
def Memory.read : Memory → Nat → Byte
  | [], _ => Memory.blank
  | (b, v) :: rest, a => if a = b then v else Memory.read rest a

/-- Put a cell in front, unless its byte is what an unlisted address reads as. -/
def Memory.put (a : Nat) (v : Byte) (rest : Memory) : Memory :=
  if v = Memory.blank then rest else (a, v) :: rest

/-- `MemWrite(addr, 1, v)` (R14): a write changes that byte only (R54). It keeps the canonical form. -/
def Memory.write (a : Nat) (v : Byte) : Memory → Memory
  | [] => Memory.put a v []
  | (b, w) :: rest =>
    if a < b then Memory.put a v ((b, w) :: rest)
    else if a = b then Memory.put a v rest
    else (b, w) :: Memory.write a v rest

/-- The canonical form: addresses strictly rising, and no cell that reads as an unlisted address does. -/
def Memory.wf : Memory → Bool
  | [] => true
  | (a, v) :: rest =>
    decide (v ≠ Memory.blank) && rest.all (fun c => decide (a < c.1)) && Memory.wf rest

/-- Every listed address exists: it is below `MEM_SIZE` (R51). -/
def Memory.below (memSize : Nat) (m : Memory) : Bool := m.all fun c => decide (c.1 < memSize)

/-- `MemRead(addr, n)`: the byte string `MEM[addr .. addr+n]`, lowest address first (R14, R65). -/
def Memory.readBytes (m : Memory) (a n : Nat) : List Byte := (List.range n).map fun i => m.read (a + i)

/-- A command's stores, one after another (R54). -/
def Memory.storeAll (stores : List Host.Cell) (m : Memory) : Memory :=
  stores.foldl (fun m c => m.write c.1 c.2) m

/-! ## State, one field at a time -/

namespace State

def setStatus (v : Status) (s : State) : State := { s with status := v }
def setOperands (v : OperandRegs) (s : State) : State := { s with operands := v }
def setResult (v : Word) (s : State) : State := { s with result := v }
def setDigest (v : Vector Word 8) (s : State) : State := { s with digest := v }
def setBlk (v : Vector Byte 64) (s : State) : State := { s with blk := v }
def setTables (v : Option Tables) (s : State) : State := { s with tables := v }
def setMem (v : Memory) (s : State) : State := { s with mem := v }
def setHost (v : List HostAction) (s : State) : State := { s with host := v }
def setReplies (v : List Word) (s : State) : State := { s with replies := v }
def setFreeCount (v : Nat) (s : State) : State := { s with freeCount := v }

/-- `STATUS.TBL_VALID`: 1 once the tables have been constructed (R24). -/
def tblValid (s : State) : Bool := s.tables.isSome

/-- `STATUS` as a word (R24). -/
def statusWord (s : State) : Word := s.status.word s.tblValid

/-- `B` (R5). -/
def bits (s : State) : Nat := s.build.bits

/-- `MEM_SIZE` (R51). -/
def memSize (s : State) : Nat := s.build.memSize

end State

/-! ## The end of a command -/

/-- `done()`: the command ends with success (R14). -/
def done (s : State) : State := s.setStatus s.status.done

/-- `fail(code)`: the command ends with a completion code, and nothing else changes (R14, R243). This is the
block's counterpart of taking an exception: nothing is saved, no mode changes and control goes nowhere, so
there is no return from it either (R245). -/
def fail (code : ErrCode) (s : State) : State := s.setStatus (s.status.fail code)

/-- `ensure_tables()` (R101). `.ok (s', t)`: the caller goes on in `s'` with the tables `t`. `.error s'`: it
has failed with `ERR_CONFIG` and the calling command ends in `s'`. -/
def ensureTables (s : State) : Except State (State × Tables) :=
  match s.tables with
  | some t => .ok (s, t)
  | none =>
    if s.status.cfgFault then .error (fail .config s)
    else if s.build.legal then .ok (s.setTables (some s.build.tables), s.build.tables)
    else .error (fail .config (s.setStatus s.status.refuseConfig))

/-! ## Reset -/

/-- The reset input (R37, R270): every register, flag and buffer of the block at its reset value, the tables
gone; the build is hardwired and `MEM` is not part of the block. The host's own moves and what it has read
are no part of the block either (log 1, log 8), nor is the index of the free value (log 7). -/
def resetBlock (s : State) : State :=
  { State.resetOf s.build with mem := s.mem, host := s.host, replies := s.replies, freeCount := s.freeCount }

end Sys2Proof.Machine
end

