-- ==== Sys2Proof/Machine/Basis.lean ====
section
/-! DEFINITION. Basis.lean: TBLINIT (40_tables.md section 1). -/

namespace Sys2Proof.Machine

/-- `TBLINIT` (R100): `ensure_tables()`, then `done()`. -/
def execTblinit (s : State) : Host.Outcome State Fault Refusal :=
  match ensureTables s with
  | .error s' => .next s'
  | .ok (s', _) => .next (done s')

end Sys2Proof.Machine
end

