-- ==== Sys2Proof/Machine/Operands.lean ====
section
/-! DEFINITION. Operands.lean: how commands read their operands: buffers (R65), address checks (R55, R56), the
geometry of a frame (R6, R160), pixels and tiles (R61, R62). -/

namespace Sys2Proof.Machine

/-! ## Byte ranges -/

/-- The byte range `[p, p + n)` passes the check of R55: an empty range is never checked, and the sum is taken
in unbounded naturals. -/
def rangeFits (memSize p n : Nat) : Bool := decide (n = 0) || decide (p + n ≤ memSize)

/-- The ranges `[p, p + n)` and `[q, q + m)` are both non-empty and share an address (R56). -/
def rangesMeet (p n q m : Nat) : Bool :=
  decide (0 < n) && decide (0 < m) && decide (p < q + m) && decide (q < p + n)

namespace State

/-- `BUF_PTR` as an address (R28). -/
def bufPtr (s : State) : Nat := s.operands.bufPtr.toNat

/-- `BUF_LEN` as a length (R28). -/
def bufLen (s : State) : Nat := s.operands.bufLen.toNat

/-- `AUX_PTR` as an address (R28). -/
def auxPtr (s : State) : Nat := s.operands.auxPtr.toNat

/-- `AUX_LEN` as a length (R28). -/
def auxLen (s : State) : Nat := s.operands.auxLen.toNat

/-- `FV_PTR` as an address (R27). -/
def fvPtr (s : State) : Nat := s.operands.fvPtr.toNat

/-- `CRC_OFFSET` as an offset into the header (R29). -/
def crcOffset (s : State) : Nat := s.operands.crcOffset.toNat

/-- `MEM[BUF_PTR .. BUF_PTR+BUF_LEN]` (R28, R65). -/
def bufBytes (s : State) : List Byte := s.mem.readBytes s.bufPtr s.bufLen

/-- `MEM[AUX_PTR .. AUX_PTR+AUX_LEN]` (R28, R65). -/
def auxBytes (s : State) : List Byte := s.mem.readBytes s.auxPtr s.auxLen

/-- The range of the byte buffer passes the check of R55. -/
def bufFits (s : State) : Bool := rangeFits s.memSize s.bufPtr s.bufLen

/-- The range of the second buffer passes the check of R55. -/
def auxFits (s : State) : Bool := rangeFits s.memSize s.auxPtr s.auxLen

end State

/-! ## Frames -/

/-- The quantities of R160, in unbounded naturals. -/
structure Geometry where
  /-- `W` -/
  width        : Nat
  /-- `H` -/
  height       : Nat
  /-- `ST` -/
  stride       : Nat
  /-- `BPR`, blocks per row -/
  blocksPerRow : Nat
  /-- `BPC`, blocks per column -/
  blocksPerCol : Nat
  /-- `TB`, blocks of the frame -/
  totalBlocks  : Nat
  /-- `BPB`, blocks per byte -/
  blocksPerByte : Nat
  /-- `N`, bytes per frame: leftover blocks are not used (R6) -/
  bytesPerFrame : Nat
  /-- `span`: from the first pixel of the first row to the last pixel of the last row (R55) -/
  span         : Nat
deriving DecidableEq, Repr

/-- The geometry of the frame that `FV_WIDTH`, `FV_HEIGHT`, `FV_STRIDE` describe (R160). -/
def State.geometry (s : State) : Geometry :=
  let W := s.operands.fvWidth.toNat
  let H := s.operands.fvHeight.toNat
  let ST := s.operands.fvStride.toNat
  let TB := (W / 8) * (H / 8)
  { width := W
    height := H
    stride := ST
    blocksPerRow := W / 8
    blocksPerCol := H / 8
    totalBlocks := TB
    blocksPerByte := 8 / s.bits
    bytesPerFrame := TB / (8 / s.bits)
    span := if W = 0 ∨ H = 0 then 0 else (H - 1) * ST + W }

/-- The frame view is one `ENCF` and `DECF` accept: `W` and `H` multiples of 8, stride not below width
(R27, R153). -/
def Geometry.viewLegal (g : Geometry) : Bool :=
  decide (g.width % 8 = 0) && decide (g.height % 8 = 0) && decide (g.width ≤ g.stride)

/-- The address of the pixel at column `px`, row `py` (R61). -/
def pixelAddr (fvPtr stride px py : Nat) : Nat := fvPtr + py * stride + px

/-- The address of element `[x][y]` of block `k`: the pixel at column `8·col + y`, row `8·row + x`, with
`row = k div BPR` and `col = k mod BPR` (R62, R150). -/
def tileAddr (fvPtr : Nat) (g : Geometry) (k x y : Nat) : Nat :=
  pixelAddr fvPtr g.stride (8 * (k % g.blocksPerRow) + y) (8 * (k / g.blocksPerRow) + x)

/-- The checks of `ENCF` and `DECF` after the tables, in the order of R153: the first that applies. `wrongLen`
is the one check in which the two differ (R157). -/
def frameCheck (wrongLen : Bool) (s : State) : Option ErrCode :=
  let g := s.geometry
  if !g.viewLegal then some .config
  else if wrongLen then some .bounds
  else if !rangeFits s.memSize s.bufPtr g.bytesPerFrame then some .addr
  else if !rangeFits s.memSize s.fvPtr g.span then some .addr
  else if rangesMeet s.bufPtr g.bytesPerFrame s.fvPtr g.span then some .overlap
  else none

end Sys2Proof.Machine
end

