-- ==== Sys2Proof/Machine/Crc32.lean ====
section
/-! DEFINITION. Crc32.lean: unit crc32_mpeg2_core: CRC32, PKTCRC, PKTVFY (45_crc32.md). -/

namespace Sys2Proof.Machine

/-- The polynomial `0x04C11DB7` (R190). -/
def crcPoly : Word := 0x04C11DB7#32

/-- The initial register value `0xFFFFFFFF` (R190). -/
def crcInit : Word := 0xFFFFFFFF#32

/-- One shift of the register: left, with the polynomial exclusive-ored if bit 31 went out (R190). -/
def crcShift (r : Word) : Word := if r.getLsbD 31 then (r <<< 1) ^^^ crcPoly else r <<< 1

/-- `n` shifts. -/
def crcShifts : Nat → Word → Word
  | 0, r => r
  | n + 1, r => crcShifts n (crcShift r)

/-- One byte enters at bits 31:24, then eight shifts (R190). -/
def crcByte (r : Word) (d : Byte) : Word := crcShifts 8 (r ^^^ (d.zeroExtend 32 <<< 24))

/-- `crc_mpeg2(bytes)` (R190). -/
def crcMpeg2 (bytes : List Byte) : Word := bytes.foldl crcByte crcInit

/-- `crc32c(data, seed)`: a non-zero seed is prepended in little-endian order, and is never loaded into the
register (R191). -/
def crc32c (data : List Byte) (seed : Word) : Word :=
  if seed = 0 then crcMpeg2 data else crcMpeg2 (leBytes seed ++ data)

/-- `CRC32` (R192). -/
def execCrc32 (s : State) : Host.Outcome State Fault Refusal :=
  if s.bufFits then .next (done (s.setResult (crc32c s.bufBytes s.operands.crcSeed)))
  else .next (fail .addr s)

/-- The header with four zero bytes in place of the checksum field, then the payload (R193). -/
def packetBytes (header payload : List Byte) (offset : Nat) : List Byte :=
  header.take offset ++ [0, 0, 0, 0] ++ header.drop (offset + 4) ++ payload

/-- `packet_crc32c` with `crc_size = 4` (R193). -/
def packetCrc (header payload : List Byte) (offset : Nat) : Word := crcMpeg2 (packetBytes header payload offset)

/-- The checksum stored in a header: `LE32(header[offset .. offset+4])` (R195). -/
def storedCrc (header : List Byte) (offset : Nat) : Word := le32 ((header.drop offset).take 4)

/-- The checks of `PKTCRC` and `PKTVFY`, the first that applies (R194, R196): `CRC_SIZE`, the field inside the
header without wrap, the header range, the payload range. -/
def packetCheck (s : State) : Option ErrCode :=
  if s.operands.crcSize ≠ 4#32 then some .config
  else if s.bufLen < s.crcOffset + 4 then some .bounds
  else if s.memSize < s.bufPtr + s.bufLen then some .addr
  else if !s.auxFits then some .addr
  else none

/-- `PKTCRC` (R194). -/
def execPktcrc (s : State) : Host.Outcome State Fault Refusal :=
  match packetCheck s with
  | some code => .next (fail code s)
  | none => .next (done (s.setResult (packetCrc s.bufBytes s.auxBytes s.crcOffset)))

/-- `PKTVFY` (R196): the one command that writes `RESULT` when it fails. -/
def execPktvfy (s : State) : Host.Outcome State Fault Refusal :=
  match packetCheck s with
  | some code => .next (fail code (s.setResult 0))
  | none =>
    .next (done (s.setResult
      (if storedCrc s.bufBytes s.crcOffset = packetCrc s.bufBytes s.auxBytes s.crcOffset then 1 else 0)))

end Sys2Proof.Machine
end

