-- ==== Sys2Proof/Machine/Extract.lean ====
section
/-! DEFINITION. Extract.lean: unit block_extractor and EXTRACT (42_block_extract.md). -/

namespace Sys2Proof.Machine

/-- `sum_b = Σ_k block[k] · PROJ[b][k]`, exact, `block[k]` an unsigned byte (R11, R141). -/
def blockSum (row : List F32) (block : List Byte) : F32 :=
  ((List.range 64).map fun k => ((block.getD k 0).toNat : Int) * row.getD k 0).sum

/-- `extract(block)` (R141): bit `B−1−b` of the pattern is 1 exactly if `sum_b > 0`; a zero sum gives 0
(R142). -/
def extractPattern (B : Nat) (proj : List (List F32)) (block : List Byte) : Nat :=
  ((List.range B).map fun b => if 0 < blockSum (proj.getD b []) block then 2 ^ (B - 1 - b) else 0).sum

/-- `EXTRACT` (R140): `RESULT <- extract(BLK)`. -/
def execExtract (s : State) : Host.Outcome State Fault Refusal :=
  match ensureTables s with
  | .error s' => .next s'
  | .ok (s', t) =>
    .next (done (s'.setResult (BitVec.ofNat 32 (extractPattern s.bits t.proj s.blk.toList))))

end Sys2Proof.Machine
end

