-- ==== Sys2Proof/Machine/Synth.lean ====
section
/-! DEFINITION. Synth.lean: unit block_synthesiser and SYNTH (41_block_synth.md). -/

namespace Sys2Proof.Machine

/-- `PAT[p][k]` as the hardware reads it: from the table, not by evaluating R131 again (R133). -/
def Tables.patByte (t : Tables) (p k : Nat) : Byte := (t.pat.getD p []).getD k 0

/-- `synthesise(p)`: the 64 bytes `PAT[p]` (R131, R133). -/
def Tables.synthesise (t : Tables) (p : Nat) : Vector Byte 64 :=
  ⟨⟨(List.range 64).map (t.patByte p)⟩, by simp⟩

/-- `SYNTH pattern` (R130): `BLK <- PAT[pattern]`; a pattern not below `2^B` is `ERR_OPERAND`, with the tables
constructed before it is looked at. -/
def execSynth (pattern : Nat) (s : State) : Host.Outcome State Fault Refusal :=
  match ensureTables s with
  | .error s' => .next s'
  | .ok (s', t) =>
    if 2 ^ s.bits ≤ pattern then .next (fail .operand s')
    else .next (done (s'.setBlk (t.synthesise pattern)))

end Sys2Proof.Machine
end

