-- ==== Sys2Proof/Machine/FrameCodec.lean ====
section
/-! DEFINITION. FrameCodec.lean: unit frame_tiler_bit_packer, ENCF and DECF (43_frame_codec.md). -/

namespace Sys2Proof.Machine

/-- The pattern of sub-block `sub` of a byte: `(byte >> (B · (BPB − 1 − sub))) & (2^B − 1)` (R151). -/
def subPattern (B bpb byte sub : Nat) : Nat := (byte >>> (B * (bpb - 1 - sub))) &&& (2 ^ B - 1)

/-- The 64 stores that put `PAT[pattern]` on block `k` of a frame (R152). -/
def tileStores (fvPtr : Nat) (g : Geometry) (t : Tables) (k pattern : Nat) : List Host.Cell :=
  (List.range 8).flatMap fun x =>
    (List.range 8).map fun y => (tileAddr fvPtr g k x y, t.patByte pattern (8 * x + y))

/-- The stores of `ENCF`, in the order of its pseudocode (R152): payload byte `i`, sub-block `sub`. The payload
is not stored to, so it is read as it stands at the start (R56, log 14). -/
def encfStores (s : State) (t : Tables) : List Host.Cell :=
  let g := s.geometry
  (List.range g.bytesPerFrame).flatMap fun i =>
    (List.range g.blocksPerByte).flatMap fun sub =>
      tileStores s.fvPtr g t (i * g.blocksPerByte + sub)
        (subPattern s.bits g.blocksPerByte (s.mem.read (s.bufPtr + i)).toNat sub)

/-- `ENCF` up to its first store: the command has failed in a state, or it will store (R152, R153). -/
def encfPlan (s : State) : Except State (State × List Host.Cell) :=
  match ensureTables s with
  | .error s' => .error s'
  | .ok (s', t) =>
    match frameCheck (decide (s.bufLen ≠ s.geometry.bytesPerFrame)) s' with
    | some code => .error (fail code s')
    | none => .ok (s', encfStores s' t)

/-- `ENCF` (R152). -/
def execEncf (s : State) : Host.Outcome State Fault Refusal :=
  match encfPlan s with
  | .error s' => .next s'
  | .ok (s', stores) => .next (done (s'.setMem (s'.mem.storeAll stores)))

/-- The 64 pixels of block `k`, flattened (R62, R155). -/
def readTile (m : Memory) (fvPtr : Nat) (g : Geometry) (k : Nat) : List Byte :=
  (List.range 64).map fun j => m.read (tileAddr fvPtr g k (j / 8) (j % 8))

/-- `byte = (byte << B) | pattern` over the sub-blocks of byte `i`, from 0 (R155, R156). -/
def decodeByte (B : Nat) (proj : List (List F32)) (m : Memory) (fvPtr : Nat) (g : Geometry) (i : Nat) : Byte :=
  BitVec.ofNat 8 ((List.range g.blocksPerByte).foldl
    (fun byte sub =>
      (byte <<< B) ||| extractPattern B proj (readTile m fvPtr g (i * g.blocksPerByte + sub))) 0)

/-- The stores of `DECF` (R155). The frame is not stored to, so it is read as it stands at the start (R56,
R158, log 14). -/
def decfStores (s : State) (t : Tables) : List Host.Cell :=
  (List.range s.geometry.bytesPerFrame).map fun i =>
    (s.bufPtr + i, decodeByte s.bits t.proj s.mem s.fvPtr s.geometry i)

/-- `DECF` up to its first store: the command has failed in a state, or it will store (R155, R157). -/
def decfPlan (s : State) : Except State (State × List Host.Cell) :=
  match ensureTables s with
  | .error s' => .error s'
  | .ok (s', t) =>
    match frameCheck (decide (s.bufLen < s.geometry.bytesPerFrame)) s' with
    | some code => .error (fail code s')
    | none => .ok (s', decfStores s' t)

/-- `DECF` (R155): `N` bytes into the buffer and `RESULT <- N`. -/
def execDecf (s : State) : Host.Outcome State Fault Refusal :=
  match decfPlan s with
  | .error s' => .next s'
  | .ok (s', stores) =>
    .next (done ((s'.setMem (s'.mem.storeAll stores)).setResult (BitVec.ofNat 32 s'.geometry.bytesPerFrame)))

end Sys2Proof.Machine
end

