-- ==== Sys2Proof/Machine/Housekeeping.lean ====
section
/-! DEFINITION. Housekeeping.lean: NOP and CLRERR (46_control.md). -/

namespace Sys2Proof.Machine

/-- `NOP` (R210): `STATUS.ERR <- 0`, nothing else. -/
def execNop (s : State) : Host.Outcome State Fault Refusal := .next (done s)

/-- `CLRERR` (R211): `STATUS.ERR_STICKY <- 0`, then `done()`. `CFG_FAULT` stays. -/
def execClrerr (s : State) : Host.Outcome State Fault Refusal :=
  .next (done (s.setStatus s.status.clearSticky))

end Sys2Proof.Machine
end

