-- ==== Sys2Proof/Machine/Sha256.lean ====
section
/-! DEFINITION. Sha256.lean: unit sha256_core and SHA256 (44_sha256.md). The algorithm is the spec's own from
general knowledge (R172 to R176, 93_implementation_defined.md G1, log 18). -/

namespace Sys2Proof.Machine

/-- The eight words `H[0]` to `H[7]`, or the working variables `a` to `h` (R175). -/
structure ShaWords where
  a : Word
  b : Word
  c : Word
  d : Word
  e : Word
  f : Word
  g : Word
  h : Word
deriving DecidableEq, Repr

/-- The initial hash value `H0` (R173). -/
def shaInit : ShaWords :=
  { a := 0x6a09e667#32, b := 0xbb67ae85#32, c := 0x3c6ef372#32, d := 0xa54ff53a#32,
    e := 0x510e527f#32, f := 0x9b05688c#32, g := 0x1f83d9ab#32, h := 0x5be0cd19#32 }

/-- The round constants `K[0..32]` (R173). -/
def shaKLow : List Word :=
  [0x428a2f98#32, 0x71374491#32, 0xb5c0fbcf#32, 0xe9b5dba5#32, 0x3956c25b#32, 0x59f111f1#32, 0x923f82a4#32, 0xab1c5ed5#32,
   0xd807aa98#32, 0x12835b01#32, 0x243185be#32, 0x550c7dc3#32, 0x72be5d74#32, 0x80deb1fe#32, 0x9bdc06a7#32, 0xc19bf174#32,
   0xe49b69c1#32, 0xefbe4786#32, 0x0fc19dc6#32, 0x240ca1cc#32, 0x2de92c6f#32, 0x4a7484aa#32, 0x5cb0a9dc#32, 0x76f988da#32,
   0x983e5152#32, 0xa831c66d#32, 0xb00327c8#32, 0xbf597fc7#32, 0xc6e00bf3#32, 0xd5a79147#32, 0x06ca6351#32, 0x14292967#32]

/-- The round constants `K[32..64]` (R173). -/
def shaKHigh : List Word :=
  [0x27b70a85#32, 0x2e1b2138#32, 0x4d2c6dfc#32, 0x53380d13#32, 0x650a7354#32, 0x766a0abb#32, 0x81c2c92e#32, 0x92722c85#32,
   0xa2bfe8a1#32, 0xa81a664b#32, 0xc24b8b70#32, 0xc76c51a3#32, 0xd192e819#32, 0xd6990624#32, 0xf40e3585#32, 0x106aa070#32,
   0x19a4c116#32, 0x1e376c08#32, 0x2748774c#32, 0x34b0bcb5#32, 0x391c0cb3#32, 0x4ed8aa4a#32, 0x5b9cca4f#32, 0x682e6ff3#32,
   0x748f82ee#32, 0x78a5636f#32, 0x84c87814#32, 0x8cc70208#32, 0x90befffa#32, 0xa4506ceb#32, 0xbef9a3f7#32, 0xc67178f2#32]

/-- The 64 round constants (R173). -/
def shaK : List Word := shaKLow ++ shaKHigh

/-- `Ch` (R174). -/
def shaCh (x y z : Word) : Word := (x &&& y) ^^^ (~~~x &&& z)

/-- `Maj` (R174). -/
def shaMaj (x y z : Word) : Word := (x &&& y) ^^^ (x &&& z) ^^^ (y &&& z)

/-- `BSIG0` (R174). -/
def shaBigSigma0 (x : Word) : Word := x.rotateRight 2 ^^^ x.rotateRight 13 ^^^ x.rotateRight 22

/-- `BSIG1` (R174). -/
def shaBigSigma1 (x : Word) : Word := x.rotateRight 6 ^^^ x.rotateRight 11 ^^^ x.rotateRight 25

/-- `SSIG0` (R174). -/
def shaSmallSigma0 (x : Word) : Word := x.rotateRight 7 ^^^ x.rotateRight 18 ^^^ (x >>> 3)

/-- `SSIG1` (R174). -/
def shaSmallSigma1 (x : Word) : Word := x.rotateRight 17 ^^^ x.rotateRight 19 ^^^ (x >>> 10)

/-- The number `z` of zero bytes of the padding, `(55 − L) mod 64` taken in `[0, 64)` (R172). -/
def shaZeros (len : Nat) : Nat := (119 - len % 64) % 64

/-- The 64-bit length field: the 8 bytes of `v`, most significant first (R172). -/
def be64 (v : Nat) : List Byte := (List.range 8).map fun i => BitVec.ofNat 8 (v >>> (56 - 8 * i))

/-- The padded message (R172). -/
def shaPad (msg : List Byte) : List Byte :=
  msg ++ 0x80#8 :: (List.replicate (shaZeros msg.length) 0#8 ++ be64 (8 * msg.length))

/-- The first `n` blocks of 64 bytes, in order. -/
def shaBlocks : Nat → List Byte → List (List Byte)
  | 0, _ => []
  | n + 1, bytes => bytes.take 64 :: shaBlocks n (bytes.drop 64)

/-- The first 16 words of the schedule: the block read big-endian (R175). -/
def shaBlockWords (block : List Byte) : List Word :=
  (List.range 16).map fun t => be32 ((block.drop (4 * t)).take 4)

/-- `Wt[t]` from the words before it, newest first: `SSIG1(Wt[t−2]) + Wt[t−7] + SSIG0(Wt[t−15]) + Wt[t−16]`
(R175). -/
def shaNextWord (newestFirst : List Word) : Word :=
  shaSmallSigma1 (newestFirst.getD 1 0) + newestFirst.getD 6 0
    + shaSmallSigma0 (newestFirst.getD 14 0) + newestFirst.getD 15 0

/-- `n` further words of the schedule, newest first. -/
def shaExtend : Nat → List Word → List Word
  | 0, ws => ws
  | n + 1, ws => shaExtend n (shaNextWord ws :: ws)

/-- The message schedule `Wt[0..64]` of a block (R175). -/
def shaSchedule (block : List Byte) : List Word := (shaExtend 48 (shaBlockWords block).reverse).reverse

/-- One round with `K[t]` and `Wt[t]` (R175). -/
def shaRound (v : ShaWords) (kw : Word × Word) : ShaWords :=
  let t1 := v.h + shaBigSigma1 v.e + shaCh v.e v.f v.g + kw.1 + kw.2
  let t2 := shaBigSigma0 v.a + shaMaj v.a v.b v.c
  { a := t1 + t2, b := v.a, c := v.b, d := v.c, e := v.d + t1, f := v.e, g := v.f, h := v.g }

/-- `H[0] += a ; ... ; H[7] += h` (R175). -/
def ShaWords.add (x y : ShaWords) : ShaWords :=
  { a := x.a + y.a, b := x.b + y.b, c := x.c + y.c, d := x.d + y.d,
    e := x.e + y.e, f := x.f + y.f, g := x.g + y.g, h := x.h + y.h }

/-- The compression of one block (R175). -/
def shaCompress (H : ShaWords) (block : List Byte) : ShaWords :=
  H.add ((shaK.zip (shaSchedule block)).foldl shaRound H)

/-- `sha256_words(data)`: `H` after the last block of the padded message (R171 to R175). -/
def sha256Words (data : List Byte) : ShaWords :=
  let padded := shaPad data
  (shaBlocks (padded.length / 64) padded).foldl shaCompress shaInit

/-- `DIGEST[j] <- H[j]` (R176). -/
def ShaWords.toVector (w : ShaWords) : Vector Word 8 := #v[w.a, w.b, w.c, w.d, w.e, w.f, w.g, w.h]

/-- Byte `n` of the digest, `(DIGEST[n div 4] >> (24 − 8·(n mod 4))) & 0xFF` (R32, R176). -/
def digestByte (digest : Vector Word 8) (n : Nat) : Byte :=
  BitVec.ofNat 8 ((digest.toList.getD (n / 4) 0).toNat >>> (24 - 8 * (n % 4)))

/-- `SHA256` (R170): the digest of the byte range of the byte buffer. It needs no tables. -/
def execSha256 (s : State) : Host.Outcome State Fault Refusal :=
  if s.bufFits then .next (done (s.setDigest (sha256Words s.bufBytes).toVector))
  else .next (fail .addr s)

end Sys2Proof.Machine
end

