-- ==== Sys2Proof/Machine/Dispatch.lean ====
section
/-! DEFINITION. Dispatch.lean: one arm per command of R83. -/

namespace Sys2Proof.Machine

/-- A command runs from its first check to its `done` or `fail` in one step (R57). -/
def exec (i : Instr) (s : State) : Host.Outcome State Fault Refusal :=
  match i with
  | .nop => Sys2Proof.Machine.execNop s
  | .clrerr => Sys2Proof.Machine.execClrerr s
  | .tblinit => Sys2Proof.Machine.execTblinit s
  | .synth pattern => Sys2Proof.Machine.execSynth pattern s
  | .extract => Sys2Proof.Machine.execExtract s
  | .encf => Sys2Proof.Machine.execEncf s
  | .decf => Sys2Proof.Machine.execDecf s
  | .sha256 => Sys2Proof.Machine.execSha256 s
  | .crc32 => Sys2Proof.Machine.execCrc32 s
  | .pktcrc => Sys2Proof.Machine.execPktcrc s
  | .pktvfy => Sys2Proof.Machine.execPktvfy s

end Sys2Proof.Machine
end

