-- ==== Sys2Proof/Machine/Registers.lean ====
section
/-! DEFINITION. Registers.lean: the register space as the host sees it (R23 to R35), the table window included. -/

namespace Sys2Proof.Machine

/-- The eleven operand registers by name (R21). -/
inductive OperandReg where
  | fvPtr
  | fvWidth
  | fvHeight
  | fvStride
  | bufPtr
  | bufLen
  | auxPtr
  | auxLen
  | crcSeed
  | crcOffset
  | crcSize
deriving DecidableEq, Repr

/-- What an offset of the register space names (R23). -/
inductive Reg where
  | cmd
  | status
  | cfgB
  | cfgS
  | operand (r : OperandReg)
  | result
  /-- `DIGEST[j]` -/
  | digest (j : Fin 8)
  /-- word `w` of `BLK` -/
  | blk (w : Fin 16)
  /-- word `w` of the table window -/
  | window (w : Fin 1024)
  /-- a reserved word of the register space, by its index -/
  | reserved (w : Nat)
deriving DecidableEq, Repr

/-- The offset column of R23 for the operand registers. -/
def OperandReg.offset : OperandReg → Nat
  | .fvPtr => 0x010
  | .fvWidth => 0x014
  | .fvHeight => 0x018
  | .fvStride => 0x01C
  | .bufPtr => 0x020
  | .bufLen => 0x024
  | .auxPtr => 0x028
  | .auxLen => 0x02C
  | .crcSeed => 0x030
  | .crcOffset => 0x034
  | .crcSize => 0x038

/-- The offset column of R23. -/
def Reg.offset : Reg → RegOffset
  | .cmd => 0x000#13
  | .status => 0x004#13
  | .cfgB => 0x008#13
  | .cfgS => 0x00C#13
  | .operand r => BitVec.ofNat 13 r.offset
  | .result => 0x03C#13
  | .digest j => BitVec.ofNat 13 (0x040 + 4 * j.val)
  | .blk w => BitVec.ofNat 13 (0x100 + 4 * w.val)
  | .window w => BitVec.ofNat 13 (0x1000 + 4 * w.val)
  | .reserved w => BitVec.ofNat 13 (4 * w)

/-- The register of a word index (offset divided by 4) below 0x10 (R23). -/
def lowReg : Nat → Reg
  | 0 => .cmd
  | 1 => .status
  | 2 => .cfgB
  | 3 => .cfgS
  | 4 => .operand .fvPtr
  | 5 => .operand .fvWidth
  | 6 => .operand .fvHeight
  | 7 => .operand .fvStride
  | 8 => .operand .bufPtr
  | 9 => .operand .bufLen
  | 10 => .operand .auxPtr
  | 11 => .operand .auxLen
  | 12 => .operand .crcSeed
  | 13 => .operand .crcOffset
  | 14 => .operand .crcSize
  | 15 => .result
  | w => .reserved w

/-- The register at an offset that is a multiple of 4 (R23): `none` for another offset, at which no access is
defined (R35). -/
def Reg.ofOffset (offset : RegOffset) : Option Reg :=
  let w := offset.toNat / 4
  if offset.toNat % 4 ≠ 0 then none
  else if w < 0x10 then some (lowReg w)
  else if w < 0x18 then some (.digest (Fin.ofNat 8 (w - 0x10)))
  else if w < 0x40 then some (.reserved w)
  else if w < 0x50 then some (.blk (Fin.ofNat 16 (w - 0x40)))
  else if w < 0x400 then some (.reserved w)
  else some (.window (Fin.ofNat 1024 (w - 0x400)))

/-- The value of an operand register (R27 to R29). -/
def OperandRegs.get (o : OperandRegs) : OperandReg → Word
  | .fvPtr => o.fvPtr
  | .fvWidth => o.fvWidth
  | .fvHeight => o.fvHeight
  | .fvStride => o.fvStride
  | .bufPtr => o.bufPtr
  | .bufLen => o.bufLen
  | .auxPtr => o.auxPtr
  | .auxLen => o.auxLen
  | .crcSeed => o.crcSeed
  | .crcOffset => o.crcOffset
  | .crcSize => o.crcSize

/-- An operand register takes any 32-bit value (R27 to R29). -/
def OperandRegs.set (o : OperandRegs) (r : OperandReg) (v : Word) : OperandRegs :=
  match r with
  | .fvPtr => { o with fvPtr := v }
  | .fvWidth => { o with fvWidth := v }
  | .fvHeight => { o with fvHeight := v }
  | .fvStride => { o with fvStride := v }
  | .bufPtr => { o with bufPtr := v }
  | .bufLen => { o with bufLen := v }
  | .auxPtr => { o with auxPtr := v }
  | .auxLen => { o with auxLen := v }
  | .crcSeed => { o with crcSeed := v }
  | .crcOffset => { o with crcOffset := v }
  | .crcSize => { o with crcSize := v }

/-- The word of the bytes `4·w` to `4·w + 3` of a block, byte `4·w + n` in bits `8·n+7 : 8·n` (R31). -/
def packWord (block : List Byte) (w : Nat) : Word :=
  block.getD (4 * w + 3) 0 ++ block.getD (4 * w + 2) 0 ++ block.getD (4 * w + 1) 0 ++ block.getD (4 * w) 0

/-- `BLK` with its word `w` replaced (R31). -/
def blkSetWord (blk : Vector Byte 64) (w : Fin 16) (v : Word) : Vector Byte 64 :=
  (((blk.set (4 * w.val) (v.extractLsb' 0 8)).set (4 * w.val + 1) (v.extractLsb' 8 8)).set
    (4 * w.val + 2) (v.extractLsb' 16 8)).set (4 * w.val + 3) (v.extractLsb' 24 8)

/-- Word `w` of the table window once the tables exist (R34): `COS`, `DCIMG`, an unused part, `EMB`, `PROJ` as
binary32 patterns, then `PAT` as packed bytes; what lies beyond `B` rows or `2^B` patterns reads 0. -/
def Tables.windowWord (t : Tables) (w : Nat) : Word :=
  if w < 0x40 then F32.toBits (t.cos.getD w 0)
  else if w < 0x80 then F32.toBits (t.dcimg.getD (w - 0x40) 0)
  else if w < 0x100 then 0
  else if w < 0x200 then F32.toBits ((t.emb.getD ((w - 0x100) / 64) []).getD (w % 64) 0)
  else if w < 0x300 then F32.toBits ((t.proj.getD ((w - 0x200) / 64) []).getD (w % 64) 0)
  else packWord (t.pat.getD ((w - 0x300) / 16) []) (w % 16)

/-- What a 32-bit read returns (R23, R34, R35). -/
def State.readReg (s : State) : Reg → Word
  | .cmd => 0
  | .status => s.statusWord
  | .cfgB => s.build.cfgB
  | .cfgS => s.build.cfgS
  | .operand r => s.operands.get r
  | .result => s.result
  | .digest j => s.digest[j]
  | .blk w => packWord s.blk.toList w.val
  | .window w =>
    match s.tables with
    | some t => t.windowWord w.val
    | none => 0
  | .reserved _ => 0

/-- What a 32-bit write does to a register other than `CMD` (R23, R35): read-only and reserved ones and the
table window ignore it. -/
def State.writeReg (s : State) (r : Reg) (v : Word) : State :=
  match r with
  | .cmd => s
  | .status => s
  | .cfgB => s
  | .cfgS => s
  | .operand o => s.setOperands (s.operands.set o v)
  | .result => s
  | .digest _ => s
  | .blk w => s.setBlk (blkSetWord s.blk w v)
  | .window _ => s
  | .reserved _ => s

end Sys2Proof.Machine
end

