-- ==== Sys2Proof/Machine/HostPort.lean ====
section
/-! DEFINITION. HostPort.lean: what each move of the host does (R280): register accesses, the command word,
accesses to `MEM`, the reset input. -/

namespace Sys2Proof.Machine

/-- A write of the word `c` to `CMD` (R25): the command it encodes runs to its end; a word that encodes none
ends with `ERR_ILLEGAL` and changes nothing else (R84). -/
def issueCommand (c : Word) (s : State) : Host.Outcome State Fault Refusal :=
  match decode c with
  | .ok i => exec i s
  | .error _ => .next (fail .illegal s)

/-- The stores to `MEM` a command would make: only `ENCF` and `DECF` write `MEM` (R21, R56). -/
def plannedStores (i : Instr) (s : State) : List Host.Cell :=
  match i with
  | .nop => []
  | .clrerr => []
  | .tblinit => []
  | .synth _ => []
  | .extract => []
  | .encf =>
    match encfPlan s with
    | .error _ => []
    | .ok (_, stores) => stores
  | .decf =>
    match decfPlan s with
    | .error _ => []
    | .ok (_, stores) => stores
  | .sha256 => []
  | .crc32 => []
  | .pktcrc => []
  | .pktvfy => []

/-- The stores a command word would make. -/
def wordStores (c : Word) (s : State) : List Host.Cell :=
  match decode c with
  | .ok i => plannedStores i s
  | .error _ => []

/-- A command that the reset input cuts short (R270): the block is reset, and each byte the command would
have written holds its old or its new value, independently of the others. Which one is a free value (U3,
log 6). -/
def cutCommand (c : Word) (s : State) : State :=
  let landed := (wordStores c s).filter fun cell => Config.storeLanded s.freeCount cell.1
  (resetBlock (s.setMem (s.mem.storeAll landed))).setFreeCount (s.freeCount + 1)

/-- A read gives its value back to the host and has no other effect (R35, R54). -/
def State.reply (v : Word) (s : State) : State := s.setReplies (v :: s.replies)

/-- A register write of the host (R25, R35). -/
def hostWrite (width : AccessWidth) (offset : RegOffset) (v : Word) (s : State) :
    Host.Outcome State Fault Refusal :=
  match width, Reg.ofOffset offset with
  | .word, some .cmd => issueCommand v s
  | .word, some r => .next (s.writeReg r v)
  | .word, none => .refused (.registerAccessUndefined .word offset)
  | .byte, _ => .refused (.registerAccessUndefined .byte offset)
  | .half, _ => .refused (.registerAccessUndefined .half offset)

/-- A register read of the host (R35). -/
def hostRead (width : AccessWidth) (offset : RegOffset) (s : State) : Host.Outcome State Fault Refusal :=
  match width, Reg.ofOffset offset with
  | .word, some r => .next (s.reply (s.readReg r))
  | .word, none => .refused (.registerAccessUndefined .word offset)
  | .byte, _ => .refused (.registerAccessUndefined .byte offset)
  | .half, _ => .refused (.registerAccessUndefined .half offset)

/-- The host stores a byte in `MEM` (R50); the address must exist (R51, log 4). -/
def hostMemWrite (a : Nat) (v : Byte) (s : State) : Host.Outcome State Fault Refusal :=
  if a < s.memSize then .next (s.setMem (s.mem.write a v)) else .fault (.hostAddressOutsideMem a)

/-- The host reads a byte of `MEM` (R50); the address must exist (R51, log 4). -/
def hostMemRead (a : Nat) (s : State) : Host.Outcome State Fault Refusal :=
  if a < s.memSize then .next (s.reply ((s.mem.read a).zeroExtend 32)) else .fault (.hostAddressOutsideMem a)

/-- One move of the host (R280, R270). -/
def perform (a : HostAction) (s : State) : Host.Outcome State Fault Refusal :=
  match a with
  | .write width offset v => hostWrite width offset v s
  | .read width offset => hostRead width offset s
  | .memWrite address v => hostMemWrite address.toNat v s
  | .memRead address => hostMemRead address.toNat s
  | .reset => .next (resetBlock s)
  | .cutCommand c => .next (cutCommand c s)

/-- The block between commands is idle and holds its state (R249, H6); with a move of the host pending, the
oldest is taken and performed (log 1). -/
def stepHost (s : State) : Host.Outcome State Fault Refusal :=
  match s.host with
  | [] => .next s
  | a :: rest => perform a (s.setHost rest)

/-- The host's move that issues the word `c`: a 32-bit write to `CMD` (R25). -/
def commandWrite (c : Word) : HostAction := .write .word Reg.cmd.offset c

end Sys2Proof.Machine
end

