-- ==== Sys2Proof/Machine/Step.lean ====
section
/-! DEFINITION. Step.lean: one step of the machine, and how one command word comes to be its next. -/

namespace Sys2Proof.Machine

/-- One step: the host's oldest pending move is performed, a command from its word to its end (R20, R57). -/
def step (s : State) : Host.Outcome State Fault Refusal := stepHost s

/-- `s` with a write of a command word to `CMD` as the host's next move. The block fetches nothing (R22): the
host's moves are loaded from outside, and this stands for that load (log 1). The bits of `w` above `nbits`
are taken as zero; a command is 32 bits (R80). -/
def State.withFetchWord (s : State) (nbits w : Nat) : State :=
  s.setHost (commandWrite (BitVec.ofNat 32 (w % 2 ^ nbits)) :: s.host)

end Sys2Proof.Machine
end

