-- ==== Sys2Proof/Machine/HostProgram.lean ====
section
/-! DEFINITION. HostProgram.lean: the notation of host programs (R86) and the pseudo-instructions (R87), as
lists of the host's moves. -/

namespace Sys2Proof.Machine

/-- `wr REG, value` (R86). -/
def wr (r : Reg) (v : Word) : HostAction := .write .word r.offset v

/-- `rd REG` (R86). -/
def rd (r : Reg) : HostAction := .read .word r.offset

/-- `<mnemonic> [imm]`: the command's word written to `CMD` (R86). -/
def issue (i : Instr) : HostAction := commandWrite (encode i)

/-- `setfv ptr, w, h, stride` (R87). -/
def setfv (ptr w h stride : Word) : List HostAction :=
  [wr (.operand .fvPtr) ptr, wr (.operand .fvWidth) w, wr (.operand .fvHeight) h, wr (.operand .fvStride) stride]

/-- `setbuf ptr, len` (R87). -/
def setbuf (ptr len : Word) : List HostAction := [wr (.operand .bufPtr) ptr, wr (.operand .bufLen) len]

/-- `setaux ptr, len` (R87). -/
def setaux (ptr len : Word) : List HostAction := [wr (.operand .auxPtr) ptr, wr (.operand .auxLen) len]

/-- `setcrc off, size` (R87). -/
def setcrc (off size : Word) : List HostAction := [wr (.operand .crcOffset) off, wr (.operand .crcSize) size]

/-- `embed` is `encf` (R87). -/
def embed : HostAction := issue .encf

/-- `extractf` is `decf` (R87). -/
def extractf : HostAction := issue .decf

end Sys2Proof.Machine
end

