-- ==== Sys2Proof/Machine/HostSoftware.lean ====
section
/-! DEFINITION. HostSoftware.lean: the functions of 48_host_functions.md. They are host software and no part of
the block (R4): no command and no step calls them (log 16). -/

namespace Sys2Proof.Machine

/-- The packet constants, parameters of the host software (R5, R221). -/
structure PacketConstants where
  magicId      : Word
  versionIdV2  : Byte
  headerSizeV1 : Nat
  headerSizeV2 : Nat
  symbolSize   : Nat
deriving DecidableEq, Repr

/-- The packet size, read once from the first packet's version byte; a string shorter than 5 bytes takes the V1
size (R220, 92_eei_decisions.md D33), and so does an unknown version (R223). -/
def packetSize (pc : PacketConstants) (raw : List Byte) : Nat :=
  if 5 ≤ raw.length ∧ raw.getD 4 0 = pc.versionIdV2 then pc.headerSizeV2 + pc.symbolSize
  else pc.headerSizeV1 + pc.symbolSize

/-- The walk of R220, in at most `fuel` packets: it stops at the first offset without the magic, or where no
whole packet is left. -/
def walkPackets (magicId : Word) (size : Nat) : Nat → List Byte → List (List Byte)
  | 0, _ => []
  | fuel + 1, raw =>
    if size ≤ raw.length ∧ le32 raw = magicId then raw.take size :: walkPackets magicId size fuel (raw.drop size)
    else []

/-- `extract_packets(raw)` (R220). `none` when the packet size is below 5, a case R220 assumes away and U11
refuses (log 16). -/
def extractPackets (pc : PacketConstants) (raw : List Byte) : Option (List (List Byte)) :=
  let size := packetSize pc raw
  if size < 5 then none else some (walkPackets pc.magicId size raw.length raw)

/-- `SHA_CHARACTERS` (R224). -/
def shaCharacters : List Char :=
  ['0', '1', '2', '3', '4', '5', '6', '7', '8', '9', 'a', 'b', 'c', 'd', 'e', 'f']

/-- `hex(digest)`: for each byte the character of its high nibble, then that of its low nibble (R224). -/
def hexRender (digest : List Byte) : List Char :=
  digest.flatMap fun d => [shaCharacters.getD (d.toNat >>> 4) '0', shaCharacters.getD (d.toNat &&& 15) '0']

end Sys2Proof.Machine
end

