-- ==== Sys2Proof/Safety.lean ====
section
/-! DEFINITION. Safety.lean: the states a run of the hardware is in (`State.Inv`), the host moves the spec defines,
and the words in which frames are stated. -/

namespace Sys2Proof

/-- The commands that call `ensure_tables()` (R101). -/
def Instr.usesTables : Instr → Bool
  | .nop => false
  | .clrerr => false
  | .tblinit => true
  | .synth _ => true
  | .extract => true
  | .encf => true
  | .decf => true
  | .sha256 => false
  | .crc32 => false
  | .pktcrc => false
  | .pktvfy => false

end Sys2Proof

namespace Sys2Proof.Machine

/-- What holds of the machine at every time, in the spec's own terms. -/
structure State.Inv (s : State) : Prop where
  /-- `1 ≤ MEM_SIZE ≤ 2^32` (R51) -/
  memSizeLegal    : 1 ≤ s.memSize ∧ s.memSize ≤ 2 ^ 32
  /-- `MEM` is held in its canonical form -/
  memCanonical    : s.mem.wf = true
  /-- every listed address of `MEM` exists (R51) -/
  memExists       : s.mem.below s.memSize = true
  /-- tables, once there, are those of the build, and the build is legal (R33, R101, R113) -/
  tablesOfBuild   : ∀ t, s.tables = some t → s.build.legal = true ∧ t = s.build.tables
  /-- `CFG_FAULT` says that the build is illegal (R24, R101) -/
  faultMeansIllegal : s.status.cfgFault = true → s.build.legal = false
  /-- a non-zero code in `ERR` is covered by `ERR_STICKY` (R24, R243, R211) -/
  errorsAreSticky : s.status.err ≠ .ok → s.status.errSticky = true

/-- The tables a table-using command works with: those present, or those it constructs (R101); `none` when
`ensure_tables()` fails. -/
def State.usableTables (s : State) : Option Tables :=
  match s.tables with
  | some t => some t
  | none => if s.status.cfgFault = false ∧ s.build.legal = true then some s.build.tables else none

/-- The host moves whose effect the spec defines (R35, R51, R280). -/
def HostAction.defined (memSize : Nat) : HostAction → Bool
  | .write width offset _ => decide (width = .word) && decide (offset.toNat % 4 = 0)
  | .read width offset => decide (width = .word) && decide (offset.toNat % 4 = 0)
  | .memWrite address _ => decide (address.toNat < memSize)
  | .memRead address => decide (address.toNat < memSize)
  | .reset => true
  | .cutCommand _ => true

/-- A run is safe to go on from `s`: the host's next move, if any, is one the spec defines. -/
def State.nextMoveDefined (s : State) : Prop := ∀ a rest, s.host = a :: rest → a.defined s.memSize = true

/-- What no command writes (R21, R38): the build, the operand registers; and the model's own fields. -/
structure CommandFrame (s t : State) : Prop where
  build     : t.build = s.build
  operands  : t.operands = s.operands
  host      : t.host = s.host
  replies   : t.replies = s.replies
  freeCount : t.freeCount = s.freeCount

/-- The values of F32 without the upper bound on the exponent: `±m · 2^e` units with `m < 2^24` (R9). -/
def F32.Representable (x : F32) : Prop := ∃ m e : Nat, m < 2 ^ 24 ∧ x.natAbs = m * 2 ^ e

/-- A binary32 value of magnitude below `2^126`, the bound of R12 on a table product; so no infinity. -/
def F32.BelowBound (x : F32) : Prop := Representable x ∧ x.natAbs < 2 ^ 275

/-- A magnitude of F32 whose `m` is even, in the form R9 gives it: `m · 2^e` with `2^23 ≤ m < 2^24`, or
`m < 2^24` at the exponent of the subnormals. -/
def F32.EvenSignificand (x : F32) : Prop :=
  ∃ m e : Nat, m < 2 ^ 24 ∧ (e = 0 ∨ 2 ^ 23 ≤ m) ∧ x.natAbs = m * 2 ^ e ∧ m % 2 = 0

end Sys2Proof.Machine
end

