-- ==== Sys2Proof/Certificates/Slice0/Obligations.lean ====
section
/-! DEFINITION. Obligations.lean: the statements for the provers. Each is over every build (`B`, `S`, `MEM_SIZE`), every
content of `MEM` and every state that meets its premises. -/

open Sys2Proof Sys2Proof.Machine

/-! ## Command words (30_encoding.md) -/

/-- Decoding the word of a well-formed command gives the command back, with every pattern of `SYNTH`
(R80, R83, R85). -/
def Obligations.EncodedCommandDecodesBack : Prop :=
  ∀ i : Instr, i.wellFormed = true → decode (encode i) = .ok i

/-- A word that decodes is the encoding of what it decodes to, and that is well-formed: no bit of a word is
dropped (R80, R83, R85, R89). -/
def Obligations.DecodedWordIsTheEncoding : Prop :=
  ∀ (c : Word) (i : Instr), decode c = .ok i → i.wellFormed = true ∧ encode i = c

/-- R83: "a word `c` encodes the command exactly when `c & mask = match`", row by row. -/
def Obligations.MaskAndMatchSelectTheCommand : Prop :=
  ∀ c : Word,
    (c &&& 0xFFFFFFFF#32 = 0x00000001#32 ↔ decode c = .ok .nop) ∧
    (c &&& 0xFFFFFFFF#32 = 0x00000002#32 ↔ decode c = .ok .clrerr) ∧
    (c &&& 0xFFFFFFFF#32 = 0x00000010#32 ↔ decode c = .ok .tblinit) ∧
    (c &&& 0xFFFF00FF#32 = 0x00000011#32 ↔ ∃ p, decode c = .ok (.synth p)) ∧
    (c &&& 0xFFFFFFFF#32 = 0x00000012#32 ↔ decode c = .ok .extract) ∧
    (c &&& 0xFFFFFFFF#32 = 0x00000020#32 ↔ decode c = .ok .encf) ∧
    (c &&& 0xFFFFFFFF#32 = 0x00000021#32 ↔ decode c = .ok .decf) ∧
    (c &&& 0xFFFFFFFF#32 = 0x00000030#32 ↔ decode c = .ok .sha256) ∧
    (c &&& 0xFFFFFFFF#32 = 0x00000040#32 ↔ decode c = .ok .crc32) ∧
    (c &&& 0xFFFFFFFF#32 = 0x00000041#32 ↔ decode c = .ok .pktcrc) ∧
    (c &&& 0xFFFFFFFF#32 = 0x00000042#32 ↔ decode c = .ok .pktvfy)

/-- R89: which words are illegal, and what a legal word is: the command of its opcode, with
`pattern = c[15:8]` for `SYNTH`. -/
def Obligations.IllegalWordsAreThoseOfTheDecoder : Prop :=
  ∀ c : Word,
    ((∃ e, decode c = .error e) ↔
      c.extractLsb' 16 16 ≠ 0 ∨
      c.extractLsb' 0 8 ∉ [0x01#8, 0x02#8, 0x10#8, 0x11#8, 0x12#8, 0x20#8, 0x21#8, 0x30#8, 0x40#8, 0x41#8, 0x42#8] ∨
      (c.extractLsb' 0 8 ≠ 0x11#8 ∧ c.extractLsb' 8 8 ≠ 0)) ∧
    (∀ i, decode c = .ok i → i.opcode = c.extractLsb' 0 8) ∧
    (∀ p, decode c = .ok (.synth p) → p = (c.extractLsb' 8 8).toNat)

/-- Words written out from R83 and from the examples of R130 decode to what they stand for (sanity). -/
def Obligations.WrittenOutWordsDecode : Prop :=
  decode 0x00000001#32 = .ok .nop ∧ decode 0x00000010#32 = .ok .tblinit ∧
  decode 0x00000A11#32 = .ok (.synth 10) ∧ decode 0x0000FF11#32 = .ok (.synth 255) ∧
  decode 0x00000020#32 = .ok .encf ∧ decode 0x00000030#32 = .ok .sha256 ∧ decode 0x00000042#32 = .ok .pktvfy

/-- R25: a 32-bit write of `c` to `CMD` issues the command `c` encodes, which runs to its end in this one step
(the host's later moves wait); a read of `CMD` returns 0 and issues nothing. -/
def Obligations.WriteToCmdRunsTheCommand : Prop :=
  ∀ (s : State) (rest : List HostAction),
    (∀ (c : Word) (i : Instr), s.host = .write .word 0x000#13 c :: rest → decode c = .ok i →
      step s = exec i { s with host := rest }) ∧
    (s.host = .read .word 0x000#13 :: rest →
      step s = .next { s with host := rest, replies := 0#32 :: s.replies })

/-- R84: a word that is no command sets `ERR` to 0x01 and `ERR_STICKY`, and nothing else changes. -/
def Obligations.IllegalWordOnlySetsTheError : Prop :=
  ∀ (s : State) (rest : List HostAction) (c : Word) (e : DecodeError),
    s.host = .write .word 0x000#13 c :: rest → decode c = .error e →
    step s = .next { s with host := rest, status := { s.status with err := .illegal, errSticky := true } }

/-! ## Housekeeping and the tables (46_control.md, 40_tables.md) -/

/-- R210: `NOP` writes `ERR` and nothing else, whatever the state (a `CFG_FAULT` too). -/
def Obligations.NopClearsOnlyTheCode : Prop :=
  ∀ s : State, exec .nop s = .next { s with status := { s.status with err := .ok } }

/-- R211: `CLRERR` writes `ERR_STICKY` and `ERR` and nothing else; `CFG_FAULT` stays. -/
def Obligations.ClrerrClearsCodeAndSticky : Prop :=
  ∀ s : State, exec .clrerr s = .next { s with status := { s.status with err := .ok, errSticky := false } }

/-- R100, R101: `TBLINIT` changes nothing but `ERR` when the tables are there, and constructs them when they are
not and the build is legal. -/
def Obligations.TblinitConstructsTheTablesOnce : Prop :=
  ∀ s : State,
    (∀ t, s.tables = some t → exec .tblinit s = .next { s with status := { s.status with err := .ok } }) ∧
    (s.tables = none → s.status.cfgFault = false → s.build.legal = true →
      exec .tblinit s =
        .next { s with tables := some s.build.tables, status := { s.status with err := .ok } })

/-- R101, R244: without tables, and with an illegal build or a `CFG_FAULT` from before, every table-using command
ends with `ERR_CONFIG` and `CFG_FAULT` and does nothing else. -/
def Obligations.TableCommandsRefuseAnIllegalBuild : Prop :=
  ∀ (s : State) (i : Instr), i.usesTables = true → s.tables = none →
    (s.status.cfgFault = true ∨ s.build.legal = false) →
    exec i s = .next { s with status := { cfgFault := true, errSticky := true, err := .config } }

/-- R5, R101: the legal builds are those with `B` in {1, 2, 4} and `S` a finite binary32 value above zero. -/
def Obligations.LegalBuildsAreThoseOfTheRule : Prop :=
  ∀ b : Build, b.legal = true ↔
    (b.cfgB.toNat = 1 ∨ b.cfgB.toNat = 2 ∨ b.cfgB.toNat = 4) ∧
    F32.exponentField b.cfgS ≠ 255 ∧ 0 < F32.ofBits b.cfgS

/-! ## Numbers (00_scope.md section 6) -/

/-- R10: `rn` gives a binary32 value, none is nearer, and of two equally near its `m` is even. `q` counts units of
`2^-298`, a value of F32 units of `2^-149`; the exponent has no upper bound here (R12: none is needed). -/
def Obligations.RoundingIsToNearestTiesToEven : Prop :=
  ∀ q : Int,
    F32.Representable (F32.rn q) ∧
    ∀ y : Int, F32.Representable y →
      |F32.rn q * 2 ^ 149 - q| ≤ |y * 2 ^ 149 - q| ∧
      (y ≠ F32.rn q → |F32.rn q * 2 ^ 149 - q| = |y * 2 ^ 149 - q| → F32.EvenSignificand (F32.rn q))

/-- R9: value and pattern are each other's inverse on the finite patterns but `0x80000000`, whose value zero is
read as `0x00000000`. -/
def Obligations.PatternAndValueAreInverse : Prop :=
  (∀ p : Word, F32.exponentField p ≠ 255 → p ≠ 0x80000000#32 → F32.toBits (F32.ofBits p) = p) ∧
  (∀ x : Int, F32.Representable x → x.natAbs < 2 ^ 277 → F32.ofBits (F32.toBits x) = x)

/-- R12: with a legal `S` every binary32 entry of the tables, and every product on the way to one (R105 to R108, left to
right), is a binary32 value of magnitude below `2^126`, so no infinity arises. -/
def Obligations.NoTableEntryOverflows : Prop :=
  (∀ i j : Nat, F32.BelowBound (cosEntry i j)) ∧
  F32.BelowBound (F32.fmul F32.quarter a0) ∧
  F32.BelowBound (F32.fmul (F32.fmul F32.quarter a0) a0) ∧
  F32.BelowBound (F32.fmul (F32.fmul (F32.fmul F32.quarter a0) a0) (64 * F32.one)) ∧
  F32.BelowBound dcValue ∧
  F32.BelowBound (F32.fmul (F32.fmul (F32.fmul F32.quarter a0) a0) dcValue) ∧
  (∀ x : Nat, F32.BelowBound
    (F32.fmul (F32.fmul (F32.fmul (F32.fmul F32.quarter a0) a0) dcValue) (cosEntry x 0))) ∧
  (∀ x y : Nat, F32.BelowBound (dcEntry x y)) ∧
  (∀ b x y : Nat, F32.BelowBound (projEntry b x y)) ∧
  ∀ p : Word, legalS p = true → ∀ b x y : Nat,
    F32.BelowBound (F32.fmul F32.quarter (alpha (embedPosition b).1)) ∧
    F32.BelowBound (F32.fmul (F32.fmul F32.quarter (alpha (embedPosition b).1)) (alpha (embedPosition b).2)) ∧
    F32.BelowBound (embedGain (F32.ofBits p) b) ∧
    F32.BelowBound (F32.fmul (embedGain (F32.ofBits p) b) (cosEntry x (embedPosition b).1)) ∧
    F32.BelowBound (embedEntry (F32.ofBits p) b x y)

/-- R102: `c_0` to `c_7` and `a0` are binary32 values within half a unit in the last place of the real constants:
`2^-25` for those from 1/2 up to 1, `2^-26` for `c_6`, which lies from 1/4 up to 1/2, and `2^-27` for `c_7`, which lies
from 1/8 up to 1/4. -/
def Obligations.CosineConstantsAreNearest : Prop :=
  (∀ k : Nat, k < 8 → F32.Representable (cosine k) ∧
    |((cosine k : Int) : ℝ) / 2 ^ 149 - Real.cos (k * Real.pi / 16)| ≤
      1 / 2 ^ (if k < 6 then 25 else if k = 6 then 26 else 27)) ∧
  F32.Representable a0 ∧ |((a0 : Int) : ℝ) / 2 ^ 149 - 1 / Real.sqrt 2| ≤ 1 / 2 ^ 25

/-- R110, R13, R131, R132: every byte of the pattern table is the exact sum of the DC image and the signed basis
images, clamped to 0 to 255 and truncated; bit `B−1−b` of the pattern gives the sign of basis image `b`. -/
def Obligations.PatternBytesAreClampedTruncatedSums : Prop :=
  ∀ (B : Nat) (S : Int) (p k : Nat), p < 2 ^ B → k < 64 →
    ((((Tables.construct B S).pat.getD p []).getD k 0).toNat : Int) =
      ⌊min (max ((((Tables.construct B S).dcimg.getD k 0
          + ∑ b ∈ Finset.range B, (if p.testBit (B - 1 - b) then (1 : Int) else -1)
              * (((Tables.construct B S).emb.getD b []).getD k 0) : Int) : ℚ) / 2 ^ 149) 0) 255⌋

/-! ## Single blocks (41_block_synth.md, 42_block_extract.md) -/

/-- R130, R133: with tables to be had, `SYNTH` puts `PAT[pattern]` into `BLK` and changes nothing else; a pattern not
below `2^B` ends with `ERR_OPERAND` and `BLK` is unchanged, the tables constructed all the same. -/
def Obligations.SynthPutsThePatternIntoBlk : Prop :=
  ∀ (s : State) (t : Tables) (p : Nat), s.usableTables = some t →
    (p < 2 ^ s.bits → ∃ blk : Vector Byte 64,
      exec (.synth p) s =
        .next { s with tables := some t, blk := blk, status := { s.status with err := .ok } } ∧
      ∀ (k : Nat) (h : k < 64), blk[k] = (t.pat.getD p []).getD k 0) ∧
    (2 ^ s.bits ≤ p →
      exec (.synth p) s =
        .next { s with tables := some t, status := { s.status with err := .operand, errSticky := true } })

/-- R140, R141: with tables to be had, `EXTRACT` writes `RESULT` and nothing else: bit `B−1−b` says whether the exact
sum over `BLK` and `PROJ[b]` is above zero, and bits `B` and up are 0. -/
def Obligations.ExtractThresholdsTheProjections : Prop :=
  ∀ (s : State) (t : Tables), s.usableTables = some t → s.build.legal = true → ∃ r : Word,
    exec .extract s =
      .next { s with tables := some t, result := r, status := { s.status with err := .ok } } ∧
    (∀ b < s.bits, r.getLsbD (s.bits - 1 - b) =
      decide (0 < ∑ k ∈ Finset.range 64, ((s.blk.toList.getD k 0).toNat : Int) * (t.proj.getD b []).getD k 0)) ∧
    (∀ j, s.bits ≤ j → r.getLsbD j = false)

/-- R142: a zero sum gives bit 0, and a block of 64 equal bytes has zero sums, so it extracts as pattern 0. -/
def Obligations.TiesExtractAsZero : Prop :=
  ∀ b : Build, b.legal = true →
    (∀ (block : List Byte) (i : Nat), i < b.bits →
      blockSum (b.tables.proj.getD i []) block = 0 →
      (extractPattern b.bits b.tables.proj block).testBit (b.bits - 1 - i) = false) ∧
    (∀ v : Byte, (∀ i < b.bits, blockSum (b.tables.proj.getD i []) (List.replicate 64 v) = 0) ∧
      extractPattern b.bits b.tables.proj (List.replicate 64 v) = 0)

/-- R145: adding one integer to all 64 bytes, none leaving 0 to 255, does not change what is extracted. -/
def Obligations.UniformShiftKeepsThePattern : Prop :=
  ∀ (b : Build) (block block' : List Byte) (d : Int), b.legal = true →
    (∀ k < 64, ((block'.getD k 0).toNat : Int) = ((block.getD k 0).toNat : Int) + d) →
    extractPattern b.bits b.tables.proj block' = extractPattern b.bits b.tables.proj block

/-- R143: every projection entry is a multiple of `2^-28` of magnitude below 1, `255 · Σ|PROJ[b][k]| < 10662`, and every
partial sum, over any set of indices, is such a multiple of magnitude below `2^14`. -/
def Obligations.ExtractorSumsFitTheAccumulator : Prop :=
  ∀ b : Nat, b < 4 →
    (∀ k < 64, ∃ n : Int, projEntry b (k / 8) (k % 8) = n * 2 ^ 121 ∧ |n| < 2 ^ 28) ∧
    255 * ∑ k ∈ Finset.range 64, |projEntry b (k / 8) (k % 8)| < 10662 * 2 ^ 149 ∧
    ∀ (block : List Byte) (A : Finset Nat), A ⊆ Finset.range 64 → ∃ n : Int,
      ∑ k ∈ A, ((block.getD k 0).toNat : Int) * projEntry b (k / 8) (k % 8) = n * 2 ^ 121 ∧ |n| < 2 ^ 42

/-! ## Frames (43_frame_codec.md) -/

/-- R152, R151, R62, R154: with tables to be had and all checks of R153 passed, `ENCF` succeeds; pixel `[x][y]` of
block `i·BPB + sub` is `PAT` of the `sub`-th pattern of payload byte `i`, most significant first, and every byte of
`MEM` that is no such pixel reads as before. -/
def Obligations.EncfWritesTheTilesOfThePayload : Prop :=
  ∀ (s : State) (t : Tables) (W H ST F P B BPR BPB N span : Nat),
    W = s.operands.fvWidth.toNat → H = s.operands.fvHeight.toNat → ST = s.operands.fvStride.toNat →
    F = s.operands.fvPtr.toNat → P = s.operands.bufPtr.toNat → B = s.bits →
    BPR = W / 8 → BPB = 8 / B → N = (W / 8) * (H / 8) / BPB →
    span = (if W = 0 ∨ H = 0 then 0 else (H - 1) * ST + W) →
    s.mem.wf = true → s.usableTables = some t →
    W % 8 = 0 → H % 8 = 0 → W ≤ ST → s.operands.bufLen.toNat = N →
    (N = 0 ∨ P + N ≤ s.memSize) → (span = 0 ∨ F + span ≤ s.memSize) →
    ¬(0 < N ∧ 0 < span ∧ P < F + span ∧ F < P + N) →
    ∃ m : Memory,
      exec .encf s = .next { s with tables := some t, mem := m, status := { s.status with err := .ok } } ∧
      (∀ i sub x y, i < N → sub < BPB → x < 8 → y < 8 →
        m.read (F + (8 * ((i * BPB + sub) / BPR) + x) * ST + (8 * ((i * BPB + sub) % BPR) + y)) =
          (t.pat.getD (((s.mem.read (P + i)).toNat >>> (B * (BPB - 1 - sub))) &&& (2 ^ B - 1)) []).getD
            (8 * x + y) 0) ∧
      (∀ a, (∀ i sub x y, i < N → sub < BPB → x < 8 → y < 8 →
          a ≠ F + (8 * ((i * BPB + sub) / BPR) + x) * ST + (8 * ((i * BPB + sub) % BPR) + y)) →
        m.read a = s.mem.read a)

/-- R155, R156, R141: with tables to be had, a legal build and all checks of R157 passed, `DECF` succeeds; byte `i` of
the buffer is the sum over the sub-blocks of the extracted pattern times `2^(B·(BPB−1−sub))`, `RESULT` is `N`, and every
other byte of `MEM` reads as before. -/
def Obligations.DecfRecoversTheBytesOfTheFrame : Prop :=
  ∀ (s : State) (t : Tables) (W H ST F P B BPR BPB N span : Nat),
    W = s.operands.fvWidth.toNat → H = s.operands.fvHeight.toNat → ST = s.operands.fvStride.toNat →
    F = s.operands.fvPtr.toNat → P = s.operands.bufPtr.toNat → B = s.bits →
    BPR = W / 8 → BPB = 8 / B → N = (W / 8) * (H / 8) / BPB →
    span = (if W = 0 ∨ H = 0 then 0 else (H - 1) * ST + W) →
    s.mem.wf = true → s.usableTables = some t → s.build.legal = true →
    W % 8 = 0 → H % 8 = 0 → W ≤ ST → N ≤ s.operands.bufLen.toNat →
    (N = 0 ∨ P + N ≤ s.memSize) → (span = 0 ∨ F + span ≤ s.memSize) →
    ¬(0 < N ∧ 0 < span ∧ P < F + span ∧ F < P + N) →
    ∃ (m : Memory) (r : Word),
      exec .decf s =
        .next { s with tables := some t, mem := m, result := r, status := { s.status with err := .ok } } ∧
      r.toNat = N ∧
      (∀ i < N, (m.read (P + i)).toNat = ∑ sub ∈ Finset.range BPB,
        extractPattern B t.proj ((List.range 64).map fun j =>
          s.mem.read (F + (8 * ((i * BPB + sub) / BPR) + j / 8) * ST + (8 * ((i * BPB + sub) % BPR) + j % 8)))
          * 2 ^ (B * (BPB - 1 - sub))) ∧
      (∀ a, (a < P ∨ P + N ≤ a) → m.read a = s.mem.read a)

/-- R153, R157, R242: with tables to be had, `ENCF` and `DECF` end with the first cause in the order configuration,
bounds, address, overlap, and change nothing but `STATUS` and the tables. The two differ in the length that is wrong. -/
def Obligations.FrameCommandsReportTheFirstCause : Prop :=
  ∀ (s : State) (t : Tables) (i : Instr) (wrongLen : Prop) (W H ST F P N span : Nat),
    W = s.operands.fvWidth.toNat → H = s.operands.fvHeight.toNat → ST = s.operands.fvStride.toNat →
    F = s.operands.fvPtr.toNat → P = s.operands.bufPtr.toNat →
    N = (W / 8) * (H / 8) / (8 / s.bits) → span = (if W = 0 ∨ H = 0 then 0 else (H - 1) * ST + W) →
    s.usableTables = some t →
    ((i = .encf ∧ (wrongLen ↔ s.operands.bufLen.toNat ≠ N)) ∨
      (i = .decf ∧ (wrongLen ↔ s.operands.bufLen.toNat < N))) →
    ((W % 8 ≠ 0 ∨ H % 8 ≠ 0 ∨ ST < W) → exec i s = .next { s with
      tables := some t, status := { s.status with err := .config, errSticky := true } }) ∧
    (W % 8 = 0 → H % 8 = 0 → W ≤ ST →
      (wrongLen → exec i s = .next { s with
        tables := some t, status := { s.status with err := .bounds, errSticky := true } }) ∧
      (¬wrongLen →
        ((0 < N ∧ s.memSize < P + N ∨ 0 < span ∧ s.memSize < F + span) → exec i s = .next { s with
          tables := some t, status := { s.status with err := .addr, errSticky := true } }) ∧
        ((N = 0 ∨ P + N ≤ s.memSize) → (span = 0 ∨ F + span ≤ s.memSize) →
          (0 < N ∧ 0 < span ∧ P < F + span ∧ F < P + N) → exec i s = .next { s with
            tables := some t, status := { s.status with err := .overlap, errSticky := true } })))

/-- R159: what `ENCF` wrote, `DECF` gives back, byte for byte, into any buffer that passes its checks, for any geometry, on
every legal build whose blocks round-trip. -/
def Obligations.DecfGivesBackWhatEncfWrote : Prop :=
  ∀ (s u : State) (t : Tables) (q len : Word) (N span : Nat),
    s.mem.wf = true → s.build.legal = true → s.usableTables = some t →
    (∀ p < 2 ^ s.bits, extractPattern s.bits t.proj (t.pat.getD p []) = p) →
    exec .encf s = .next u → u.status.err = .ok →
    N = s.operands.bufLen.toNat →
    span = (if s.operands.fvWidth.toNat = 0 ∨ s.operands.fvHeight.toNat = 0 then 0
      else (s.operands.fvHeight.toNat - 1) * s.operands.fvStride.toNat + s.operands.fvWidth.toNat) →
    N ≤ len.toNat → q.toNat + N ≤ s.memSize →
    (q.toNat + N ≤ s.operands.fvPtr.toNat ∨ s.operands.fvPtr.toNat + span ≤ q.toNat) →
    ∃ v, exec .decf { u with operands := { u.operands with bufPtr := q, bufLen := len } } = .next v ∧
      v.status.err = .ok ∧ v.result.toNat = N ∧
      ∀ i < N, v.mem.read (q.toNat + i) = s.mem.read (s.operands.bufPtr.toNat + i)

/-- R158, R57: the bytes `DECF` stores are those of the sequential pseudocode, which reads the frame from `MEM` as the
stores before left it. -/
def Obligations.DecfEqualsTheSequentialLoop : Prop :=
  ∀ (s s' : State) (stores : List Host.Cell), s.mem.wf = true → decfPlan s = .ok (s', stores) →
    ∀ t, s.usableTables = some t →
    s.mem.storeAll stores =
      (List.range s.geometry.bytesPerFrame).foldl
        (fun m i => m.write (s.bufPtr + i) (decodeByte s.bits t.proj m s.fvPtr s.geometry i)) s.mem

/-! ## SHA-256 (44_sha256.md) -/

/-- R170: `SHA256` writes `DIGEST` with the digest of the bytes of the buffer and changes nothing else, with no regard to
`CFG_FAULT`; an empty buffer is never checked; a range past `MEM_SIZE` is `ERR_ADDR`. -/
def Obligations.ShaWritesTheDigestOfTheBuffer : Prop :=
  ∀ (s : State) (P L : Nat), P = s.operands.bufPtr.toNat → L = s.operands.bufLen.toNat →
    ((L = 0 ∨ P + L ≤ s.memSize) → exec .sha256 s = .next { s with
      digest := (sha256Words ((List.range L).map fun i => s.mem.read (P + i))).toVector,
      status := { s.status with err := .ok } }) ∧
    ((0 < L ∧ s.memSize < P + L) → exec .sha256 s = .next { s with
      status := { s.status with err := .addr, errSticky := true } })

/-- R172: the padded message is the message, 0x80, the least number of zero bytes that makes the length a multiple of
64, and the bit length in eight bytes, most significant first. -/
def Obligations.ShaPaddingIsTheRule : Prop :=
  ∀ msg : List Byte, ∃ (z : Nat) (tail : List Byte),
    shaPad msg = msg ++ [0x80#8] ++ List.replicate z 0#8 ++ tail ∧ tail.length = 8 ∧
    z < 64 ∧ (msg.length + 1 + z + 8) % 64 = 0 ∧
    (shaPad msg).length = 64 * ((msg.length + 8) / 64 + 1) ∧
    (8 * msg.length < 2 ^ 64 → tail.foldl (fun v d => 256 * v + d.toNat) 0 = 8 * msg.length)

/-- R175: the message schedule: 16 words read big-endian, then the recurrence. -/
def Obligations.ShaScheduleIsTheRecurrence : Prop :=
  ∀ block : List Byte, block.length = 64 →
    (shaSchedule block).length = 64 ∧
    (∀ t < 16, (shaSchedule block).getD t 0 =
      block.getD (4 * t) 0 ++ block.getD (4 * t + 1) 0 ++ block.getD (4 * t + 2) 0 ++ block.getD (4 * t + 3) 0) ∧
    (∀ t, 16 ≤ t → t < 64 → (shaSchedule block).getD t 0 =
      shaSmallSigma1 ((shaSchedule block).getD (t - 2) 0) + (shaSchedule block).getD (t - 7) 0
        + shaSmallSigma0 ((shaSchedule block).getD (t - 15) 0) + (shaSchedule block).getD (t - 16) 0)

/-- R176, R32: the 32 digest bytes taken from the words by the formula are `BE(H[0]) ‖ ... ‖ BE(H[7])`. -/
def Obligations.DigestBytesAreBigEndianWords : Prop :=
  ∀ w : ShaWords, (List.range 32).map (digestByte w.toVector) =
    beBytes w.a ++ beBytes w.b ++ beBytes w.c ++ beBytes w.d ++ beBytes w.e ++ beBytes w.f ++ beBytes w.g ++ beBytes w.h

/-! ## CRC (45_crc32.md) -/

/-- R192, R191: `CRC32` writes `RESULT` and nothing else: the CRC of the buffer, with the four bytes of a non-zero seed in
little-endian order in front; a range past `MEM_SIZE` is `ERR_ADDR`. -/
def Obligations.CrcWritesTheSeededCrcOfTheBuffer : Prop :=
  ∀ (s : State) (P L : Nat) (seed : Word),
    P = s.operands.bufPtr.toNat → L = s.operands.bufLen.toNat → seed = s.operands.crcSeed →
    ((L = 0 ∨ P + L ≤ s.memSize) → exec .crc32 s = .next { s with
      result := crcMpeg2 ((if seed = 0 then [] else
          [seed.extractLsb' 0 8, seed.extractLsb' 8 8, seed.extractLsb' 16 8, seed.extractLsb' 24 8])
        ++ (List.range L).map fun i => s.mem.read (P + i)),
      status := { s.status with err := .ok } }) ∧
    ((0 < L ∧ s.memSize < P + L) → exec .crc32 s = .next { s with
      status := { s.status with err := .addr, errSticky := true } })

/-- R190: the shift register procedure with the polynomial `0x04C11DB7` and the initial value `0xFFFFFFFF`; the same bit by
bit, each byte entering most significant bit first (no input reflection), the register returned as it stands (no
output reflection, no final exclusive or); and the two known answers of the rule. -/
def Obligations.CrcIsTheMpeg2Register : Prop :=
  (∀ bytes : List Byte, crcMpeg2 bytes =
    bytes.foldl (fun (r : Word) (d : Byte) =>
      (fun r : Word => if r.getLsbD 31 then (r <<< 1) ^^^ 0x04C11DB7#32 else r <<< 1)^[8]
        (r ^^^ (d.zeroExtend 32 <<< 24))) 0xFFFFFFFF#32) ∧
  (∀ bytes : List Byte, crcMpeg2 bytes =
    (bytes.flatMap fun d => (List.range 8).map fun i => d.getLsbD (7 - i)).foldl
      (fun (r : Word) bit => if r.getLsbD 31 != bit then (r <<< 1) ^^^ 0x04C11DB7#32 else r <<< 1) 0xFFFFFFFF#32) ∧
  crcMpeg2 [] = 0xFFFFFFFF#32 ∧
  crcMpeg2 [0x31#8, 0x32#8, 0x33#8, 0x34#8, 0x35#8, 0x36#8, 0x37#8, 0x38#8, 0x39#8] = 0x0376E6E7#32

/-- R194, R193: with its checks passed, `PKTCRC` writes `RESULT` and nothing else: the CRC of the header up to the field,
four zero bytes, the header after the field, the payload. -/
def Obligations.PktcrcWritesThePacketCrc : Prop :=
  ∀ (s : State) (P L A M off : Nat),
    P = s.operands.bufPtr.toNat → L = s.operands.bufLen.toNat →
    A = s.operands.auxPtr.toNat → M = s.operands.auxLen.toNat → off = s.operands.crcOffset.toNat →
    s.operands.crcSize = 4#32 → off + 4 ≤ L → P + L ≤ s.memSize → (M = 0 ∨ A + M ≤ s.memSize) →
    exec .pktcrc s = .next { s with
      result := crcMpeg2 ((List.range off).map (fun i => s.mem.read (P + i)) ++ [0#8, 0#8, 0#8, 0#8]
        ++ (List.range (L - (off + 4))).map (fun i => s.mem.read (P + (off + 4) + i))
        ++ (List.range M).map (fun i => s.mem.read (A + i))),
      status := { s.status with err := .ok } }

/-- R196, R195, R197 law 7: with its checks passed, `PKTVFY` writes `RESULT` and nothing else: 1 exactly if the four bytes
of the field are the packet CRC in little-endian order, else 0; a mismatch is no error. -/
def Obligations.PktvfyComparesTheStoredCrc : Prop :=
  ∀ (s : State) (P L A M off : Nat) (crc : Word),
    P = s.operands.bufPtr.toNat → L = s.operands.bufLen.toNat →
    A = s.operands.auxPtr.toNat → M = s.operands.auxLen.toNat → off = s.operands.crcOffset.toNat →
    crc = crcMpeg2 ((List.range off).map (fun i => s.mem.read (P + i)) ++ [0#8, 0#8, 0#8, 0#8]
      ++ (List.range (L - (off + 4))).map (fun i => s.mem.read (P + (off + 4) + i))
      ++ (List.range M).map (fun i => s.mem.read (A + i))) →
    s.operands.crcSize = 4#32 → off + 4 ≤ L → P + L ≤ s.memSize → (M = 0 ∨ A + M ≤ s.memSize) →
    ∃ r : Word, exec .pktvfy s = .next { s with result := r, status := { s.status with err := .ok } } ∧
      (r = 0 ∨ r = 1) ∧
      (r = 1 ↔ s.mem.read (P + off) = crc.extractLsb' 0 8 ∧ s.mem.read (P + off + 1) = crc.extractLsb' 8 8 ∧
        s.mem.read (P + off + 2) = crc.extractLsb' 16 8 ∧ s.mem.read (P + off + 3) = crc.extractLsb' 24 8)

/-- R194, R196, R242: `PKTCRC` and `PKTVFY` end with the first cause in the order `CRC_SIZE`, field inside the header, ranges;
`PKTCRC` leaves `RESULT`, `PKTVFY` writes 0 there; nothing else changes. -/
def Obligations.PacketCommandsReportTheFirstCause : Prop :=
  ∀ (s : State) (P L A M off : Nat) (code : ErrCode),
    P = s.operands.bufPtr.toNat → L = s.operands.bufLen.toNat →
    A = s.operands.auxPtr.toNat → M = s.operands.auxLen.toNat → off = s.operands.crcOffset.toNat →
    ((s.operands.crcSize ≠ 4#32 ∧ code = .config) ∨
      (s.operands.crcSize = 4#32 ∧ L < off + 4 ∧ code = .bounds) ∨
      (s.operands.crcSize = 4#32 ∧ off + 4 ≤ L ∧ (s.memSize < P + L ∨ 0 < M ∧ s.memSize < A + M) ∧
        code = .addr)) →
    exec .pktcrc s = .next { s with status := { s.status with err := code, errSticky := true } } ∧
    exec .pktvfy s = .next { s with result := 0, status := { s.status with err := code, errSticky := true } }

/-- R193: the bytes that stand in the checksum field do not influence the packet CRC. -/
def Obligations.ChecksumFieldDoesNotInfluenceThePacketCrc : Prop :=
  ∀ (header header' payload : List Byte) (off : Nat), header'.length = header.length →
    off + 4 ≤ header.length → (∀ i, (i < off ∨ off + 4 ≤ i) → header'.getD i 0 = header.getD i 0) →
    packetCrc header' payload off = packetCrc header payload off

/-- R225, R197 S5: a header whose field the host has filled, little-endian, with what `PKTCRC` gave, verifies, if the
payload does not share a byte with the field. -/
def Obligations.StoredPacketCrcVerifies : Prop :=
  ∀ (s t : State) (at_ : Nat) (m : Memory), s.mem.wf = true →
    exec .pktcrc s = .next t → t.status.err = .ok →
    at_ = s.operands.bufPtr.toNat + s.operands.crcOffset.toNat →
    (s.operands.auxLen.toNat = 0 ∨
      s.operands.auxPtr.toNat + s.operands.auxLen.toNat ≤ at_ ∨ at_ + 4 ≤ s.operands.auxPtr.toNat) →
    m = (((t.mem.write at_ (t.result.extractLsb' 0 8)).write (at_ + 1) (t.result.extractLsb' 8 8)).write
      (at_ + 2) (t.result.extractLsb' 16 8)).write (at_ + 3) (t.result.extractLsb' 24 8) →
    exec .pktvfy { t with mem := m } =
      .next { t with mem := m, result := 1, status := { t.status with err := .ok } }

/-- R197 S5: in a packet that verifies, changing exactly one byte of header or payload (so also flipping one bit) makes
the verification false. -/
def Obligations.OneChangedByteFailsVerification : Prop :=
  ∀ (header payload header' payload' : List Byte) (off j : Nat),
    off + 4 ≤ header.length → header'.length = header.length → payload'.length = payload.length →
    storedCrc header off = packetCrc header payload off →
    j < (header ++ payload).length →
    (header' ++ payload').getD j 0 ≠ (header ++ payload).getD j 0 →
    (∀ i, i ≠ j → (header' ++ payload').getD i 0 = (header ++ payload).getD i 0) →
    storedCrc header' off ≠ packetCrc header' payload' off

/-! ## All commands (60_exceptions.md, 10_state.md) -/

/-- R212: no command can hang: every command, in every state, ends in a next state. -/
def Obligations.EveryCommandEnds : Prop := ∀ (i : Instr) (s : State), ∃ t, exec i s = .next t

/-- R243: a failing command changes `STATUS.ERR`, `STATUS.ERR_STICKY` and nothing else, but for tables it constructed,
`CFG_FAULT` when construction refuses, and `RESULT <- 0` of `PKTVFY`. No byte of `MEM` is written. -/
def Obligations.FailingCommandChangesOnlyTheStatus : Prop :=
  ∀ (i : Instr) (s t : State), exec i s = .next t → t.status.err ≠ .ok →
    t.status.errSticky = true ∧
    (t.status.cfgFault = s.status.cfgFault ∨ (t.status.cfgFault = true ∧ t.status.err = .config ∧ t.tables = none)) ∧
    (t.tables = s.tables ∨ (s.tables = none ∧ s.build.legal = true ∧ t.tables = some s.build.tables)) ∧
    (t.result = s.result ∨ (i = .pktvfy ∧ t.result = 0)) ∧
    t = { s with status := t.status, tables := t.tables, result := t.result }

/-- R21, R38: which command writes which state. No command writes the build or an operand register; `RESULT`, `DIGEST`,
`BLK` and `MEM` are written only by the commands of R21's table; tables once there stay, and `CFG_FAULT` stays. -/
def Obligations.CommandsWriteOnlyWhatTheTableSays : Prop :=
  ∀ (i : Instr) (s t : State), exec i s = .next t →
    CommandFrame s t ∧
    (i ∉ [.extract, .decf, .crc32, .pktcrc, .pktvfy] → t.result = s.result) ∧
    (i ≠ .sha256 → t.digest = s.digest) ∧
    ((∀ p, i ≠ .synth p) → t.blk = s.blk) ∧
    (i ≠ .encf → i ≠ .decf → t.mem = s.mem) ∧
    (i.usesTables = false → t.tables = s.tables ∧ t.status.cfgFault = s.status.cfgFault) ∧
    (∀ T, s.tables = some T → t.tables = some T) ∧
    (s.status.cfgFault = true → t.status.cfgFault = true)

/-- R55, R280: a command writes a byte of `MEM` only inside its own destination range, which lies in `MEM`: `ENCF` in the
frame span, `DECF` in the first `N` bytes of the buffer. -/
def Obligations.CommandsWriteOnlyTheirRanges : Prop :=
  ∀ (i : Instr) (s t : State) (a : Nat), s.mem.wf = true → exec i s = .next t →
    t.mem.read a ≠ s.mem.read a →
    a < s.memSize ∧
    ((i = .encf ∧ s.fvPtr ≤ a ∧ a < s.fvPtr + s.geometry.span) ∨
      (i = .decf ∧ s.bufPtr ≤ a ∧ a < s.bufPtr + s.geometry.bytesPerFrame))

/-- R24, R245: `ERR_STICKY` after a command is 1 if the command failed; a command that succeeds leaves it, but for
`CLRERR`, which clears it. -/
def Obligations.StickyFlagRemembersFailures : Prop :=
  ∀ (i : Instr) (s t : State), exec i s = .next t →
    (t.status.err ≠ .ok → t.status.errSticky = true) ∧
    (t.status.err = .ok → i ≠ .clrerr → t.status.errSticky = s.status.errSticky) ∧
    (i = .clrerr → t.status.errSticky = false)

/-- R24: where the fields of `STATUS` stand, and that every other bit reads as 0. -/
def Obligations.StatusWordHasItsFields : Prop :=
  ∀ s : State,
    s.statusWord.getLsbD 0 = s.tables.isSome ∧ s.statusWord.getLsbD 1 = s.status.cfgFault ∧
    s.statusWord.getLsbD 2 = s.status.errSticky ∧
    (∀ i, 3 ≤ i → i < 8 → s.statusWord.getLsbD i = false) ∧
    s.statusWord.extractLsb' 8 8 = (match s.status.err with
      | .ok => 0x00#8 | .illegal => 0x01#8 | .config => 0x02#8 | .bounds => 0x03#8
      | .operand => 0x04#8 | .addr => 0x05#8 | .overlap => 0x06#8) ∧
    (∀ i, 16 ≤ i → s.statusWord.getLsbD i = false)

/-! ## The machine step by step (10_state.md, 70_reset_and_hazards.md) -/

/-- Every step keeps the invariant: `MEM` canonical and inside `MEM_SIZE`, tables those of a legal build, `CFG_FAULT` only
on an illegal one, errors sticky (R24, R33, R51, R101, R113). The canonical form is the model's own (log 3). -/
def Obligations.StepKeepsTheInvariant : Prop :=
  ∀ s t : State, s.Inv → step s = .next t → t.Inv

/-- The invariant holds after reset of every build with a legal `MEM_SIZE`, and so at `State.reset`, whose build is the
model's choice (log 2). -/
def Obligations.ResetMeetsTheInvariant : Prop :=
  (∀ b : Build, 1 ≤ b.memSize → b.memSize ≤ 2 ^ 32 → (State.resetOf b).Inv) ∧ State.reset.Inv

/-- R38, R113, R24: no step changes the build; but for the reset input, no step changes tables that are there or clears
`CFG_FAULT`; and `TBL_VALID` and `CFG_FAULT` are not both 1 after a step from a state of the invariant. -/
def Obligations.TablesAndFaultStayUntilReset : Prop :=
  ∀ s t : State, step s = .next t →
    t.build = s.build ∧
    ((∀ rest, s.host ≠ .reset :: rest) → (∀ c rest, s.host ≠ .cutCommand c :: rest) →
      (∀ T, s.tables = some T → t.tables = some T) ∧
      (s.status.cfgFault = true → t.status.cfgFault = true)) ∧
    (s.Inv → ¬(t.tblValid = true ∧ t.status.cfgFault = true))

/-- R37: what reset leaves, for every build: `STATUS` 0, the operand registers, `RESULT`, `DIGEST`, `BLK` 0, no tables, every
word of the table window 0, `CFG_B` and `CFG_S` the build constants. -/
def Obligations.ResetLeavesZeros : Prop :=
  ∀ b : Build,
    (State.resetOf b).statusWord = 0 ∧
    (∀ r, (State.resetOf b).operands.get r = 0) ∧ (State.resetOf b).result = 0 ∧
    (∀ j : Fin 8, (State.resetOf b).digest[j] = 0) ∧ (∀ k : Fin 64, (State.resetOf b).blk[k] = 0) ∧
    (State.resetOf b).tables = none ∧ (∀ w, (State.resetOf b).readReg (.window w) = 0) ∧
    (State.resetOf b).readReg .cfgB = b.cfgB ∧ (State.resetOf b).readReg .cfgS = b.cfgS

/-- R270, R37: the reset input between commands puts the block in its reset state and keeps the build and `MEM`. That the
model's own fields stay is the model's choice (logs 1, 7, 8). -/
def Obligations.ResetInputKeepsOnlyMem : Prop :=
  ∀ (s : State) (rest : List HostAction), s.host = .reset :: rest →
    step s = .next { State.resetOf s.build with
      mem := s.mem, host := rest, replies := s.replies, freeCount := s.freeCount }

/-- R270, U3: a command cut short by the reset input leaves the block reset, and each byte of `MEM` with its old value or
the value the whole command would have left, whichever the free value says for that byte. It holds for every value of
the free value. -/
def Obligations.CutCommandLeavesOldOrNewBytes : Prop :=
  ∀ (s : State) (rest : List HostAction) (c : Word), s.mem.wf = true → s.host = .cutCommand c :: rest →
    ∃ m : Memory,
      step s = .next { State.resetOf s.build with
        mem := m, host := rest, replies := s.replies, freeCount := s.freeCount + 1 } ∧
      (∀ e, decode c = .error e → ∀ a, m.read a = s.mem.read a) ∧
      (∀ i u, decode c = .ok i → exec i { s with host := rest } = .next u →
        ∀ a, m.read a = if Config.storeLanded s.freeCount a = true then u.mem.read a else s.mem.read a)

/-- R280: every host move the spec defines is performed; the machine stops on none of them. That it idles with no move
pending, and which moves there are, is the model's choice (log 1). -/
def Obligations.DefinedMovesNeverStopTheMachine : Prop :=
  ∀ s : State, s.nextMoveDefined → ∃ t, step s = .next t

/-- R35, R23 to R30, R32: a register access of another width or alignment is refused. A 32-bit read at a multiple of 4
names a register, answers what that register reads as, and changes nothing else: `CMD` 0, `STATUS` its word, `CFG_B` and
`CFG_S` the build constants, an operand register and `RESULT` and `DIGEST` their values, a reserved word 0. (`BLK` and the
table window: `BlkWordsPackLittleEndian`, `TableWindowShowsTheTables`.) -/
def Obligations.OnlyAlignedWordAccessesAreDefined : Prop :=
  ∀ (s : State) (width : AccessWidth) (offset : RegOffset) (v : Word) (rest : List HostAction),
    (s.host = .write width offset v :: rest → (width ≠ .word ∨ offset.toNat % 4 ≠ 0) →
      step s = .refused (.registerAccessUndefined width offset)) ∧
    (s.host = .read width offset :: rest → (width ≠ .word ∨ offset.toNat % 4 ≠ 0) →
      step s = .refused (.registerAccessUndefined width offset)) ∧
    (offset.toNat % 4 = 0 → ∃ r, Reg.ofOffset offset = some r) ∧
    (∀ r, s.host = .read .word offset :: rest → Reg.ofOffset offset = some r →
      step s = .next { s with host := rest, replies := s.readReg r :: s.replies }) ∧
    s.readReg .cmd = 0 ∧ s.readReg .status = s.statusWord ∧
    s.readReg .cfgB = s.build.cfgB ∧ s.readReg .cfgS = s.build.cfgS ∧
    [OperandReg.fvPtr, .fvWidth, .fvHeight, .fvStride, .bufPtr, .bufLen, .auxPtr, .auxLen, .crcSeed, .crcOffset,
        .crcSize].map (fun o => s.readReg (.operand o)) =
      [s.operands.fvPtr, s.operands.fvWidth, s.operands.fvHeight, s.operands.fvStride, s.operands.bufPtr,
        s.operands.bufLen, s.operands.auxPtr, s.operands.auxLen, s.operands.crcSeed, s.operands.crcOffset,
        s.operands.crcSize] ∧
    (∀ o, s.readReg (.operand o) = s.operands.get o) ∧ s.readReg .result = s.result ∧
    (∀ j : Fin 8, s.readReg (.digest j) = s.digest[j]) ∧ (∀ w, s.readReg (.reserved w) = 0)

/-! ## The register space (10_state.md) -/

/-- R23: the register map. -/
def Obligations.RegisterMapIsTheTable : Prop :=
  [0x000#13, 0x004#13, 0x008#13, 0x00C#13].map Reg.ofOffset =
    [some .cmd, some .status, some .cfgB, some .cfgS] ∧
  [0x010#13, 0x014#13, 0x018#13, 0x01C#13, 0x020#13, 0x024#13, 0x028#13, 0x02C#13, 0x030#13, 0x034#13, 0x038#13].map
      Reg.ofOffset =
    [some (.operand .fvPtr), some (.operand .fvWidth), some (.operand .fvHeight), some (.operand .fvStride),
     some (.operand .bufPtr), some (.operand .bufLen), some (.operand .auxPtr), some (.operand .auxLen),
     some (.operand .crcSeed), some (.operand .crcOffset), some (.operand .crcSize)] ∧
  Reg.ofOffset 0x03C#13 = some .result ∧
  (∀ j : Fin 8, Reg.ofOffset (BitVec.ofNat 13 (0x040 + 4 * j.val)) = some (.digest j)) ∧
  (∀ w, 0x060 / 4 ≤ w → w < 0x100 / 4 → Reg.ofOffset (BitVec.ofNat 13 (4 * w)) = some (.reserved w)) ∧
  (∀ w : Fin 16, Reg.ofOffset (BitVec.ofNat 13 (0x100 + 4 * w.val)) = some (.blk w)) ∧
  (∀ w, 0x140 / 4 ≤ w → w < 0x1000 / 4 → Reg.ofOffset (BitVec.ofNat 13 (4 * w)) = some (.reserved w)) ∧
  (∀ w : Fin 1024, Reg.ofOffset (BitVec.ofNat 13 (0x1000 + 4 * w.val)) = some (.window w))

/-- R27, R28, R29, R35: an operand register holds any value written to it, the other operand registers keep theirs, and a
write to a read-only or reserved word or to the table window is ignored. -/
def Obligations.RegisterWritesReachOnlyTheirRegister : Prop :=
  ∀ (s : State) (offset : RegOffset) (r : Reg) (v : Word) (rest : List HostAction),
    s.host = .write .word offset v :: rest → Reg.ofOffset offset = some r →
    (∀ o, r = .operand o → ∃ t, step s = .next t ∧ t = { s with host := rest, operands := t.operands } ∧
      t.operands.get o = v ∧ ∀ o', o' ≠ o → t.operands.get o' = s.operands.get o') ∧
    ((∀ o, r ≠ .operand o) → (∀ w, r ≠ .blk w) → r ≠ .cmd → step s = .next { s with host := rest })

/-- R31: byte `4·w + n` of `BLK` is bits `8·n+7 : 8·n` of its word `w`, for writes and for reads. -/
def Obligations.BlkWordsPackLittleEndian : Prop :=
  ∀ (s : State) (w : Fin 16) (v : Word) (rest : List HostAction),
    (s.host = .write .word (BitVec.ofNat 13 (0x100 + 4 * w.val)) v :: rest →
      ∃ blk : Vector Byte 64, step s = .next { s with host := rest, blk := blk } ∧
        ∀ k : Fin 64, blk[k] = if k.val / 4 = w.val then v.extractLsb' (8 * (k.val % 4)) 8 else s.blk[k]) ∧
    (s.host = .read .word (BitVec.ofNat 13 (0x100 + 4 * w.val)) :: rest →
      ∃ value : Word, step s = .next { s with host := rest, replies := value :: s.replies } ∧
        ∀ (n : Nat) (h : n < 4), value.extractLsb' (8 * n) 8 = s.blk[4 * w.val + n])

/-- R34: the table window of a build whose tables are constructed, and before that all zero. -/
def Obligations.TableWindowShowsTheTables : Prop :=
  ∀ s : State,
    (s.tables = none → ∀ w, s.readReg (.window w) = 0) ∧
    (s.tables = some s.build.tables → s.build.legal = true →
      (∀ i j : Fin 8, s.readReg (.window ⟨8 * i.val + j.val, by omega⟩) = F32.toBits (cosEntry i j)) ∧
      (∀ x y : Fin 8, s.readReg (.window ⟨64 + 8 * x.val + y.val, by omega⟩) = F32.toBits (dcEntry x y)) ∧
      (∀ w : Fin 128, s.readReg (.window ⟨128 + w.val, by omega⟩) = 0) ∧
      (∀ (b : Fin 4) (x y : Fin 8), s.readReg (.window ⟨256 + 64 * b.val + 8 * x.val + y.val, by omega⟩) =
        if b.val < s.bits then F32.toBits (embedEntry (F32.ofBits s.build.cfgS) b x y) else 0) ∧
      (∀ (b : Fin 4) (x y : Fin 8), s.readReg (.window ⟨512 + 64 * b.val + 8 * x.val + y.val, by omega⟩) =
        if b.val < s.bits then F32.toBits (projEntry b x y) else 0) ∧
      (∀ (p w : Fin 16) (n : Nat), n < 4 →
        (s.readReg (.window ⟨768 + 16 * p.val + w.val, by omega⟩)).extractLsb' (8 * n) 8 =
          if p.val < 2 ^ s.bits then (s.build.tables.pat.getD p []).getD (4 * w.val + n) 0 else 0))

/-- R54, R57, R280: the host stores a byte in `MEM` and then reads one, both at addresses that exist. The read gives the
last byte written there; the store changes its own byte only, the read changes none, and nothing else changes. -/
def Obligations.HostReadsTheLastByteWritten : Prop :=
  ∀ (s : State) (a b : Word) (v : Byte) (rest : List HostAction), s.mem.wf = true →
    a.toNat < s.memSize → b.toNat < s.memSize → s.host = .memWrite a v :: .memRead b :: rest →
    ∃ (t : State) (m : Memory),
      step s = .next t ∧ t = { s with host := .memRead b :: rest, mem := m } ∧
      step t = .next { s with
        host := rest, mem := m
        replies := (if b = a then v else s.mem.read b.toNat).zeroExtend 32 :: s.replies } ∧
      m = s.mem.write a.toNat v ∧ ∀ x, m.read x = if x = a.toNat then v else s.mem.read x

/-! ## Host software (48_host_functions.md) -/

/-- R222 law 6: `n` whole packets followed by trailing bytes that do not begin another packet are returned as they are. -/
def Obligations.FramerReturnsTheWholePackets : Prop :=
  ∀ (pc : PacketConstants) (packets : List (List Byte)) (trailing : List Byte) (size : Nat),
    size = packetSize pc (packets.flatten ++ trailing) → 5 ≤ size →
    (∀ p ∈ packets, p.length = size ∧ le32 p = pc.magicId) →
    (size ≤ trailing.length → le32 trailing ≠ pc.magicId) →
    extractPackets pc (packets.flatten ++ trailing) = some packets

/-- R224: the hex rendering of a 32-byte digest has 64 characters, two for a byte, the high nibble first, from the digits
`0123456789abcdef`. -/
def Obligations.HexRendersHighNibbleFirst : Prop :=
  ∀ digest : List Byte, digest.length = 32 →
    (hexRender digest).length = 64 ∧
    ∀ n < 32, ∀ z : Char,
      (hexRender digest).getD (2 * n) z = "0123456789abcdef".toList.getD ((digest.getD n 0).toNat / 16) z ∧
      (hexRender digest).getD (2 * n + 1) z = "0123456789abcdef".toList.getD ((digest.getD n 0).toNat % 16) z
end

