-- ==== Sys2Proof/Laws/Memory.lean ====
section
/-! SUPPORT. Laws/Memory.lean: read after write, and that every operation on `MEM` keeps the canonical form. -/

namespace Sys2Proof.Machine.Memory

theorem wf_cons {a : Nat} {v : Byte} {m : Memory} :
    wf ((a, v) :: m) = true ↔ v ≠ blank ∧ (∀ c ∈ m, a < c.1) ∧ wf m = true := by
  simp [wf, and_assoc]

theorem read_eq_blank {m : Memory} {a : Nat} (h : ∀ c ∈ m, c.1 ≠ a) : read m a = blank := by
  induction m with
  | nil => rfl
  | cons c m ih =>
    have hc : a ≠ c.1 := fun e => h c (by simp) e.symm
    simpa [read, hc] using ih fun d hd => h d (by simp [hd])

theorem read_put {a : Nat} {v : Byte} {m : Memory} (h : ∀ c ∈ m, c.1 ≠ a) (b : Nat) :
    read (put a v m) b = if b = a then v else read m b := by
  unfold put
  split
  · next hv =>
    split
    · next e => rw [e, read_eq_blank h, hv]
    · rfl
  · simp [read]

theorem wf_put {a : Nat} {v : Byte} {m : Memory} (hm : wf m = true) (h : ∀ c ∈ m, a < c.1) :
    wf (put a v m) = true := by
  unfold put
  split
  · exact hm
  · next hv => exact wf_cons.mpr ⟨hv, h, hm⟩

theorem mem_put {a : Nat} {v : Byte} {m : Memory} {c : Host.Cell} (h : c ∈ put a v m) :
    c = (a, v) ∨ c ∈ m := by
  unfold put at h
  split at h
  · exact .inr h
  · simpa using h

theorem mem_write {a : Nat} {v : Byte} {m : Memory} {c : Host.Cell} (h : c ∈ write a v m) :
    c = (a, v) ∨ c ∈ m := by
  induction m with
  | nil => exact mem_put h
  | cons d m ih =>
    obtain ⟨b, w⟩ := d
    simp only [write] at h
    split at h
    · exact mem_put h
    · split at h
      · exact (mem_put h).imp_right fun hc => by simp [hc]
      · rcases List.mem_cons.mp h with rfl | hc
        · simp
        · exact (ih hc).imp_right fun hc => by simp [hc]

/-- A write keeps the canonical form. -/
theorem wf_write {a : Nat} {v : Byte} {m : Memory} (hm : wf m = true) : wf (write a v m) = true := by
  induction m with
  | nil => exact wf_put rfl (by simp)
  | cons d m ih =>
    obtain ⟨b, w⟩ := d
    obtain ⟨hw, hlt, hwf⟩ := wf_cons.mp hm
    simp only [write]
    split
    · next hab =>
      refine wf_put hm fun c hc => ?_
      rcases List.mem_cons.mp hc with rfl | hc
      · exact hab
      · exact hab.trans (hlt c hc)
    · next hab =>
      split
      · next e => exact wf_put hwf fun c hc => e ▸ hlt c hc
      · next hne =>
        refine wf_cons.mpr ⟨hw, fun c hc => ?_, ih hwf⟩
        rcases mem_write hc with rfl | hc
        · show b < a
          omega
        · exact hlt c hc

/-- A read gives the last byte written to the address, and a write changes that byte only (R54). -/
theorem read_write {a : Nat} {v : Byte} {m : Memory} (hm : wf m = true) (b : Nat) :
    read (write a v m) b = if b = a then v else read m b := by
  induction m with
  | nil => exact read_put (by simp) b
  | cons d m ih =>
    obtain ⟨e, w⟩ := d
    obtain ⟨-, hlt, hwf⟩ := wf_cons.mp hm
    simp only [write]
    split
    · next hae =>
      refine read_put (fun c hc => ?_) b
      rcases List.mem_cons.mp hc with rfl | hc
      · exact hae.ne'
      · exact (hae.trans (hlt c hc)).ne'
    · split
      · next hae =>
        subst hae
        rw [read_put fun c hc => (hlt c hc).ne']
        by_cases hb : b = a <;> simp [read, hb]
      · next hne =>
        rw [read, ih hwf, read]
        by_cases hb : b = e
        · have : b ≠ a := fun h => hne (h ▸ hb)
          simp [hb, hb ▸ this]
        · simp [hb]

@[simp] theorem read_write_self {a : Nat} {v : Byte} {m : Memory} (hm : wf m = true) :
    read (write a v m) a = v := by simp [read_write hm]

theorem below_write {n a : Nat} {v : Byte} {m : Memory} (ha : a < n) (hm : below n m = true) :
    below n (write a v m) = true := by
  simp only [below, List.all_eq_true, decide_eq_true_eq] at hm ⊢
  intro c hc
  rcases mem_write hc with rfl | hc
  · exact ha
  · exact hm c hc

/-- Storing keeps the canonical form. -/
theorem wf_storeAll {stores : List Host.Cell} {m : Memory} (hm : wf m = true) :
    wf (storeAll stores m) = true := by
  induction stores generalizing m with
  | nil => exact hm
  | cons c stores ih => exact ih (wf_write hm)

theorem below_storeAll {n : Nat} {stores : List Host.Cell} {m : Memory}
    (hs : ∀ c ∈ stores, c.1 < n) (hm : below n m = true) : below n (storeAll stores m) = true := by
  induction stores generalizing m with
  | nil => exact hm
  | cons c stores ih =>
    exact ih (fun d hd => hs d (by simp [hd])) (below_write (hs c (by simp)) hm)

/-- An address that no store names keeps its byte. -/
theorem read_storeAll_of_not_mem {stores : List Host.Cell} {m : Memory} {a : Nat} (hm : wf m = true)
    (h : ∀ c ∈ stores, c.1 ≠ a) : read (storeAll stores m) a = read m a := by
  induction stores generalizing m with
  | nil => rfl
  | cons c stores ih =>
    have hc : a ≠ c.1 := (h c (by simp)).symm
    exact (ih (wf_write hm) fun d hd => h d (by simp [hd])).trans (by simp [read_write hm, hc])

/-- With distinct addresses, every store lands. -/
theorem read_storeAll_of_mem {stores : List Host.Cell} {m : Memory} {a : Nat} {v : Byte} (hm : wf m = true)
    (hd : (stores.map Prod.fst).Nodup) (h : (a, v) ∈ stores) : read (storeAll stores m) a = v := by
  induction stores generalizing m with
  | nil => simp at h
  | cons c stores ih =>
    obtain ⟨hc, hd⟩ := List.nodup_cons.mp hd
    rcases List.mem_cons.mp h with rfl | h
    · have hne : ∀ d ∈ stores, d.1 ≠ a := fun d hd e => hc (List.mem_map.mpr ⟨d, hd, e⟩)
      exact (read_storeAll_of_not_mem (wf_write hm) hne).trans (read_write_self hm)
    · exact ih (wf_write hm) hd h

/-- A byte after a list of stores is the old one, or one that a store put there. -/
theorem read_storeAll_cases {stores : List Host.Cell} {m : Memory} (hm : wf m = true) (a : Nat) :
    read (storeAll stores m) a = read m a ∨ (a, read (storeAll stores m) a) ∈ stores := by
  induction stores generalizing m with
  | nil => exact .inl rfl
  | cons c stores ih =>
    obtain ⟨b, v⟩ := c
    rcases ih (m := write b v m) (wf_write hm) with h | h
    · by_cases hab : a = b
      · subst hab
        right
        have : read (storeAll ((a, v) :: stores) m) a = v := h.trans (read_write_self hm)
        simp [this]
      · left
        exact h.trans (by simp [read_write hm, hab])
    · exact .inr (List.mem_cons_of_mem _ h)

@[simp] theorem length_readBytes {m : Memory} {a n : Nat} : (readBytes m a n).length = n := by
  simp [readBytes]

theorem getD_readBytes {m : Memory} {a n i : Nat} (h : i < n) :
    (readBytes m a n).getD i 0 = read m (a + i) := by
  simp [readBytes, List.getD, h]

/-- Equal readings are equal memories: the form is canonical. -/
theorem eq_of_read {m m' : Memory} (hm : wf m = true) (hm' : wf m' = true)
    (h : ∀ a, read m a = read m' a) : m = m' := by
  induction m generalizing m' with
  | nil =>
    cases m' with
    | nil => rfl
    | cons c m' =>
      obtain ⟨b, w⟩ := c
      exact absurd (by simpa [read] using (h b).symm) (wf_cons.mp hm').1
  | cons c m ih =>
    obtain ⟨a, v⟩ := c
    obtain ⟨hv, hlt, hwf⟩ := wf_cons.mp hm
    have ha : read m a = blank := read_eq_blank fun d hd => (hlt d hd).ne'
    cases m' with
    | nil => exact absurd (by simpa [read] using h a) hv
    | cons c' m' =>
      obtain ⟨b, w⟩ := c'
      obtain ⟨hw, hlt', hwf'⟩ := wf_cons.mp hm'
      have hb : read m' b = blank := read_eq_blank fun d hd => (hlt' d hd).ne'
      have hab : a = b := by
        by_contra hne
        rcases Nat.lt_or_gt_of_ne hne with hl | hl
        · have hr : read m' a = blank := read_eq_blank fun d hd => (hl.trans (hlt' d hd)).ne'
          exact hv (by simpa [read, hne, hr] using h a)
        · have hr : read m b = blank := read_eq_blank fun d hd => (hl.trans (hlt d hd)).ne'
          exact hw (by simpa [read, Ne.symm hne, hr] using (h b).symm)
      subst hab
      have hvw : v = w := by simpa [read] using h a
      subst hvw
      refine congrArg _ (ih hwf hwf' fun e => ?_)
      by_cases he : e = a
      · rw [he, ha, hb]
      · simpa [read, he] using h e

end Sys2Proof.Machine.Memory
end

