-- ==== Sys2Proof/Laws/State.lean ====
section
/-! SUPPORT. Laws/State.lean: one lemma per field per update of `State`, so that no proof unfolds a record update. -/

namespace Sys2Proof.Machine

section
variable (s : State) (v : Status)

@[simp] theorem State.setStatus_build : (s.setStatus v).build = s.build := rfl
@[simp] theorem State.setStatus_status : (s.setStatus v).status = v := rfl
@[simp] theorem State.setStatus_operands : (s.setStatus v).operands = s.operands := rfl
@[simp] theorem State.setStatus_result : (s.setStatus v).result = s.result := rfl
@[simp] theorem State.setStatus_digest : (s.setStatus v).digest = s.digest := rfl
@[simp] theorem State.setStatus_blk : (s.setStatus v).blk = s.blk := rfl
@[simp] theorem State.setStatus_tables : (s.setStatus v).tables = s.tables := rfl
@[simp] theorem State.setStatus_mem : (s.setStatus v).mem = s.mem := rfl
@[simp] theorem State.setStatus_host : (s.setStatus v).host = s.host := rfl
@[simp] theorem State.setStatus_replies : (s.setStatus v).replies = s.replies := rfl
@[simp] theorem State.setStatus_freeCount : (s.setStatus v).freeCount = s.freeCount := rfl

end

section
variable (s : State) (v : OperandRegs)

@[simp] theorem State.setOperands_build : (s.setOperands v).build = s.build := rfl
@[simp] theorem State.setOperands_status : (s.setOperands v).status = s.status := rfl
@[simp] theorem State.setOperands_operands : (s.setOperands v).operands = v := rfl
@[simp] theorem State.setOperands_result : (s.setOperands v).result = s.result := rfl
@[simp] theorem State.setOperands_digest : (s.setOperands v).digest = s.digest := rfl
@[simp] theorem State.setOperands_blk : (s.setOperands v).blk = s.blk := rfl
@[simp] theorem State.setOperands_tables : (s.setOperands v).tables = s.tables := rfl
@[simp] theorem State.setOperands_mem : (s.setOperands v).mem = s.mem := rfl
@[simp] theorem State.setOperands_host : (s.setOperands v).host = s.host := rfl
@[simp] theorem State.setOperands_replies : (s.setOperands v).replies = s.replies := rfl
@[simp] theorem State.setOperands_freeCount : (s.setOperands v).freeCount = s.freeCount := rfl

end

section
variable (s : State) (v : Word)

@[simp] theorem State.setResult_build : (s.setResult v).build = s.build := rfl
@[simp] theorem State.setResult_status : (s.setResult v).status = s.status := rfl
@[simp] theorem State.setResult_operands : (s.setResult v).operands = s.operands := rfl
@[simp] theorem State.setResult_result : (s.setResult v).result = v := rfl
@[simp] theorem State.setResult_digest : (s.setResult v).digest = s.digest := rfl
@[simp] theorem State.setResult_blk : (s.setResult v).blk = s.blk := rfl
@[simp] theorem State.setResult_tables : (s.setResult v).tables = s.tables := rfl
@[simp] theorem State.setResult_mem : (s.setResult v).mem = s.mem := rfl
@[simp] theorem State.setResult_host : (s.setResult v).host = s.host := rfl
@[simp] theorem State.setResult_replies : (s.setResult v).replies = s.replies := rfl
@[simp] theorem State.setResult_freeCount : (s.setResult v).freeCount = s.freeCount := rfl

end

section
variable (s : State) (v : Vector Word 8)

@[simp] theorem State.setDigest_build : (s.setDigest v).build = s.build := rfl
@[simp] theorem State.setDigest_status : (s.setDigest v).status = s.status := rfl
@[simp] theorem State.setDigest_operands : (s.setDigest v).operands = s.operands := rfl
@[simp] theorem State.setDigest_result : (s.setDigest v).result = s.result := rfl
@[simp] theorem State.setDigest_digest : (s.setDigest v).digest = v := rfl
@[simp] theorem State.setDigest_blk : (s.setDigest v).blk = s.blk := rfl
@[simp] theorem State.setDigest_tables : (s.setDigest v).tables = s.tables := rfl
@[simp] theorem State.setDigest_mem : (s.setDigest v).mem = s.mem := rfl
@[simp] theorem State.setDigest_host : (s.setDigest v).host = s.host := rfl
@[simp] theorem State.setDigest_replies : (s.setDigest v).replies = s.replies := rfl
@[simp] theorem State.setDigest_freeCount : (s.setDigest v).freeCount = s.freeCount := rfl

end

section
variable (s : State) (v : Vector Byte 64)

@[simp] theorem State.setBlk_build : (s.setBlk v).build = s.build := rfl
@[simp] theorem State.setBlk_status : (s.setBlk v).status = s.status := rfl
@[simp] theorem State.setBlk_operands : (s.setBlk v).operands = s.operands := rfl
@[simp] theorem State.setBlk_result : (s.setBlk v).result = s.result := rfl
@[simp] theorem State.setBlk_digest : (s.setBlk v).digest = s.digest := rfl
@[simp] theorem State.setBlk_blk : (s.setBlk v).blk = v := rfl
@[simp] theorem State.setBlk_tables : (s.setBlk v).tables = s.tables := rfl
@[simp] theorem State.setBlk_mem : (s.setBlk v).mem = s.mem := rfl
@[simp] theorem State.setBlk_host : (s.setBlk v).host = s.host := rfl
@[simp] theorem State.setBlk_replies : (s.setBlk v).replies = s.replies := rfl
@[simp] theorem State.setBlk_freeCount : (s.setBlk v).freeCount = s.freeCount := rfl

end

section
variable (s : State) (v : Option Tables)

@[simp] theorem State.setTables_build : (s.setTables v).build = s.build := rfl
@[simp] theorem State.setTables_status : (s.setTables v).status = s.status := rfl
@[simp] theorem State.setTables_operands : (s.setTables v).operands = s.operands := rfl
@[simp] theorem State.setTables_result : (s.setTables v).result = s.result := rfl
@[simp] theorem State.setTables_digest : (s.setTables v).digest = s.digest := rfl
@[simp] theorem State.setTables_blk : (s.setTables v).blk = s.blk := rfl
@[simp] theorem State.setTables_tables : (s.setTables v).tables = v := rfl
@[simp] theorem State.setTables_mem : (s.setTables v).mem = s.mem := rfl
@[simp] theorem State.setTables_host : (s.setTables v).host = s.host := rfl
@[simp] theorem State.setTables_replies : (s.setTables v).replies = s.replies := rfl
@[simp] theorem State.setTables_freeCount : (s.setTables v).freeCount = s.freeCount := rfl

end

section
variable (s : State) (v : Memory)

@[simp] theorem State.setMem_build : (s.setMem v).build = s.build := rfl
@[simp] theorem State.setMem_status : (s.setMem v).status = s.status := rfl
@[simp] theorem State.setMem_operands : (s.setMem v).operands = s.operands := rfl
@[simp] theorem State.setMem_result : (s.setMem v).result = s.result := rfl
@[simp] theorem State.setMem_digest : (s.setMem v).digest = s.digest := rfl
@[simp] theorem State.setMem_blk : (s.setMem v).blk = s.blk := rfl
@[simp] theorem State.setMem_tables : (s.setMem v).tables = s.tables := rfl
@[simp] theorem State.setMem_mem : (s.setMem v).mem = v := rfl
@[simp] theorem State.setMem_host : (s.setMem v).host = s.host := rfl
@[simp] theorem State.setMem_replies : (s.setMem v).replies = s.replies := rfl
@[simp] theorem State.setMem_freeCount : (s.setMem v).freeCount = s.freeCount := rfl

end

section
variable (s : State) (v : List HostAction)

@[simp] theorem State.setHost_build : (s.setHost v).build = s.build := rfl
@[simp] theorem State.setHost_status : (s.setHost v).status = s.status := rfl
@[simp] theorem State.setHost_operands : (s.setHost v).operands = s.operands := rfl
@[simp] theorem State.setHost_result : (s.setHost v).result = s.result := rfl
@[simp] theorem State.setHost_digest : (s.setHost v).digest = s.digest := rfl
@[simp] theorem State.setHost_blk : (s.setHost v).blk = s.blk := rfl
@[simp] theorem State.setHost_tables : (s.setHost v).tables = s.tables := rfl
@[simp] theorem State.setHost_mem : (s.setHost v).mem = s.mem := rfl
@[simp] theorem State.setHost_host : (s.setHost v).host = v := rfl
@[simp] theorem State.setHost_replies : (s.setHost v).replies = s.replies := rfl
@[simp] theorem State.setHost_freeCount : (s.setHost v).freeCount = s.freeCount := rfl

end

section
variable (s : State) (v : List Word)

@[simp] theorem State.setReplies_build : (s.setReplies v).build = s.build := rfl
@[simp] theorem State.setReplies_status : (s.setReplies v).status = s.status := rfl
@[simp] theorem State.setReplies_operands : (s.setReplies v).operands = s.operands := rfl
@[simp] theorem State.setReplies_result : (s.setReplies v).result = s.result := rfl
@[simp] theorem State.setReplies_digest : (s.setReplies v).digest = s.digest := rfl
@[simp] theorem State.setReplies_blk : (s.setReplies v).blk = s.blk := rfl
@[simp] theorem State.setReplies_tables : (s.setReplies v).tables = s.tables := rfl
@[simp] theorem State.setReplies_mem : (s.setReplies v).mem = s.mem := rfl
@[simp] theorem State.setReplies_host : (s.setReplies v).host = s.host := rfl
@[simp] theorem State.setReplies_replies : (s.setReplies v).replies = v := rfl
@[simp] theorem State.setReplies_freeCount : (s.setReplies v).freeCount = s.freeCount := rfl

end

section
variable (s : State) (v : Nat)

@[simp] theorem State.setFreeCount_build : (s.setFreeCount v).build = s.build := rfl
@[simp] theorem State.setFreeCount_status : (s.setFreeCount v).status = s.status := rfl
@[simp] theorem State.setFreeCount_operands : (s.setFreeCount v).operands = s.operands := rfl
@[simp] theorem State.setFreeCount_result : (s.setFreeCount v).result = s.result := rfl
@[simp] theorem State.setFreeCount_digest : (s.setFreeCount v).digest = s.digest := rfl
@[simp] theorem State.setFreeCount_blk : (s.setFreeCount v).blk = s.blk := rfl
@[simp] theorem State.setFreeCount_tables : (s.setFreeCount v).tables = s.tables := rfl
@[simp] theorem State.setFreeCount_mem : (s.setFreeCount v).mem = s.mem := rfl
@[simp] theorem State.setFreeCount_host : (s.setFreeCount v).host = s.host := rfl
@[simp] theorem State.setFreeCount_replies : (s.setFreeCount v).replies = s.replies := rfl
@[simp] theorem State.setFreeCount_freeCount : (s.setFreeCount v).freeCount = v := rfl

end

section
variable (s : State) (code : ErrCode)

@[simp] theorem done_build : (done s).build = s.build := rfl
@[simp] theorem done_status : (done s).status = s.status.done := rfl
@[simp] theorem done_operands : (done s).operands = s.operands := rfl
@[simp] theorem done_result : (done s).result = s.result := rfl
@[simp] theorem done_digest : (done s).digest = s.digest := rfl
@[simp] theorem done_blk : (done s).blk = s.blk := rfl
@[simp] theorem done_tables : (done s).tables = s.tables := rfl
@[simp] theorem done_mem : (done s).mem = s.mem := rfl
@[simp] theorem done_host : (done s).host = s.host := rfl
@[simp] theorem done_replies : (done s).replies = s.replies := rfl
@[simp] theorem done_freeCount : (done s).freeCount = s.freeCount := rfl
@[simp] theorem fail_build : (fail code s).build = s.build := rfl
@[simp] theorem fail_status : (fail code s).status = s.status.fail code := rfl
@[simp] theorem fail_operands : (fail code s).operands = s.operands := rfl
@[simp] theorem fail_result : (fail code s).result = s.result := rfl
@[simp] theorem fail_digest : (fail code s).digest = s.digest := rfl
@[simp] theorem fail_blk : (fail code s).blk = s.blk := rfl
@[simp] theorem fail_tables : (fail code s).tables = s.tables := rfl
@[simp] theorem fail_mem : (fail code s).mem = s.mem := rfl
@[simp] theorem fail_host : (fail code s).host = s.host := rfl
@[simp] theorem fail_replies : (fail code s).replies = s.replies := rfl
@[simp] theorem fail_freeCount : (fail code s).freeCount = s.freeCount := rfl
@[simp] theorem resetBlock_build : (resetBlock s).build = s.build := rfl
@[simp] theorem resetBlock_status : (resetBlock s).status = Status.reset := rfl
@[simp] theorem resetBlock_operands : (resetBlock s).operands = OperandRegs.reset := rfl
@[simp] theorem resetBlock_result : (resetBlock s).result = 0 := rfl
@[simp] theorem resetBlock_digest : (resetBlock s).digest = Vector.replicate 8 0 := rfl
@[simp] theorem resetBlock_blk : (resetBlock s).blk = Vector.replicate 64 0 := rfl
@[simp] theorem resetBlock_tables : (resetBlock s).tables = none := rfl
@[simp] theorem resetBlock_mem : (resetBlock s).mem = s.mem := rfl
@[simp] theorem resetBlock_host : (resetBlock s).host = s.host := rfl
@[simp] theorem resetBlock_replies : (resetBlock s).replies = s.replies := rfl
@[simp] theorem resetBlock_freeCount : (resetBlock s).freeCount = s.freeCount := rfl

end

section
variable (st : Status) (code : ErrCode)

@[simp] theorem Status.done_err : st.done.err = .ok := rfl
@[simp] theorem Status.done_errSticky : st.done.errSticky = st.errSticky := rfl
@[simp] theorem Status.done_cfgFault : st.done.cfgFault = st.cfgFault := rfl
@[simp] theorem Status.fail_err : (st.fail code).err = code := rfl
@[simp] theorem Status.fail_errSticky : (st.fail code).errSticky = true := rfl
@[simp] theorem Status.fail_cfgFault : (st.fail code).cfgFault = st.cfgFault := rfl
@[simp] theorem Status.refuseConfig_err : st.refuseConfig.err = st.err := rfl
@[simp] theorem Status.refuseConfig_errSticky : st.refuseConfig.errSticky = st.errSticky := rfl
@[simp] theorem Status.refuseConfig_cfgFault : st.refuseConfig.cfgFault = true := rfl
@[simp] theorem Status.clearSticky_err : st.clearSticky.err = st.err := rfl
@[simp] theorem Status.clearSticky_errSticky : st.clearSticky.errSticky = false := rfl
@[simp] theorem Status.clearSticky_cfgFault : st.clearSticky.cfgFault = st.cfgFault := rfl

end

section
variable (s : State) (v : Word)

@[simp] theorem State.reply_build : (s.reply v).build = s.build := rfl
@[simp] theorem State.reply_status : (s.reply v).status = s.status := rfl
@[simp] theorem State.reply_operands : (s.reply v).operands = s.operands := rfl
@[simp] theorem State.reply_result : (s.reply v).result = s.result := rfl
@[simp] theorem State.reply_digest : (s.reply v).digest = s.digest := rfl
@[simp] theorem State.reply_blk : (s.reply v).blk = s.blk := rfl
@[simp] theorem State.reply_tables : (s.reply v).tables = s.tables := rfl
@[simp] theorem State.reply_mem : (s.reply v).mem = s.mem := rfl
@[simp] theorem State.reply_host : (s.reply v).host = s.host := rfl
@[simp] theorem State.reply_replies : (s.reply v).replies = v :: s.replies := rfl
@[simp] theorem State.reply_freeCount : (s.reply v).freeCount = s.freeCount := rfl

end

end Sys2Proof.Machine
end

