-- ==== Sys2Proof/Laws/Ops.lean ====
section
/-! SUPPORT. Laws/Ops.lean: one lemma for each shared operation that says everything it can do. -/

namespace Sys2Proof.Machine

/-- When `ensure_tables()` lets its caller go on, it has done nothing but put the tables there (R101). -/
theorem ensureTables_ok {s s' : State} {t : Tables} (h : ensureTables s = .ok (s', t)) :
    s.usableTables = some t ∧ s' = s.setTables (some t) := by
  unfold ensureTables at h
  split at h
  · next t' ht =>
    cases h
    exact ⟨by simp [State.usableTables, ht], by rw [State.setTables, ← ht]⟩
  · next ht =>
    split at h
    · cases h
    · next hf =>
      split at h
      · next hl =>
        cases h
        exact ⟨by simp [State.usableTables, ht, hl, hf], rfl⟩
      · cases h

/-- When `ensure_tables()` ends its caller, `CFG_FAULT` is set and the code is `ERR_CONFIG` (R101). -/
theorem ensureTables_error {s s' : State} (h : ensureTables s = .error s') :
    s.usableTables = none ∧ s' = fail .config (s.setStatus s.status.refuseConfig) := by
  unfold ensureTables at h
  split at h
  · cases h
  · next ht =>
    split at h
    · next hf =>
      cases h
      have e : s.status.refuseConfig = s.status := by
        cases hs : s.status
        simp_all [Status.refuseConfig]
      exact ⟨by simp [State.usableTables, ht, hf], by rw [e, State.setStatus]⟩
    · split at h
      · cases h
      · next hl =>
        cases h
        exact ⟨by simp [State.usableTables, ht, hl], rfl⟩

/-- `ensure_tables()` with tables at hand (R101). -/
theorem ensureTables_of_usable {s : State} {t : Tables} (h : s.usableTables = some t) :
    ensureTables s = .ok (s.setTables (some t), t) := by
  cases e : ensureTables s with
  | ok p =>
    obtain ⟨h1, h2⟩ := ensureTables_ok (s' := p.1) (t := p.2) e
    rw [h1] at h
    cases h
    rw [← h2]
  | error s' => simp [(ensureTables_error e).1] at h

/-- `ensure_tables()` without tables to be had (R101, R244). -/
theorem ensureTables_of_unusable {s : State} (h : s.usableTables = none) :
    ensureTables s = .error (fail .config (s.setStatus s.status.refuseConfig)) := by
  cases e : ensureTables s with
  | ok p => simp [(ensureTables_ok (s' := p.1) (t := p.2) e).1] at h
  | error s' => rw [(ensureTables_error e).2]

/-- All the checks of `ENCF` and `DECF` pass (R153). -/
theorem frameCheck_none {wrongLen : Bool} {s : State} :
    frameCheck wrongLen s = none ↔
      s.geometry.viewLegal = true ∧ wrongLen = false ∧
      rangeFits s.memSize s.bufPtr s.geometry.bytesPerFrame = true ∧
      rangeFits s.memSize s.fvPtr s.geometry.span = true ∧
      rangesMeet s.bufPtr s.geometry.bytesPerFrame s.fvPtr s.geometry.span = false := by
  simp only [frameCheck]
  split_ifs <;> simp_all

/-- All the checks of `PKTCRC` and `PKTVFY` pass (R194). -/
theorem packetCheck_none {s : State} :
    packetCheck s = none ↔
      s.operands.crcSize = 4#32 ∧ s.crcOffset + 4 ≤ s.bufLen ∧
      s.bufPtr + s.bufLen ≤ s.memSize ∧ s.auxFits = true := by
  simp only [packetCheck]
  split_ifs <;> simp_all

/-- A check never reports success as an error code. -/
theorem frameCheck_ne_ok {wrongLen : Bool} {s : State} : frameCheck wrongLen s ≠ some .ok := by
  simp only [frameCheck]
  split_ifs <;> simp

/-- A check never reports success as an error code. -/
theorem packetCheck_ne_ok {s : State} : packetCheck s ≠ some .ok := by
  simp only [packetCheck]
  split_ifs <;> simp

/-- A range that passes the check of R55 lies in `MEM`. -/
theorem lt_of_rangeFits {memSize p n a : Nat} (h : rangeFits memSize p n = true) (hp : p ≤ a) (ha : a < p + n) :
    a < memSize := by
  simp only [rangeFits, Bool.or_eq_true, decide_eq_true_eq] at h
  omega

/-- The oldest move of the host is the next step (log 1). -/
theorem step_cons {s : State} {a : HostAction} {rest : List HostAction} (h : s.host = a :: rest) :
    step s = perform a (s.setHost rest) := by
  simp [step, stepHost, h]

/-- With no move pending the block is idle (R249). -/
theorem step_nil {s : State} (h : s.host = []) : step s = .next s := by
  simp [step, stepHost, h]

/-- A command word written to `CMD` is issued (R25). -/
theorem perform_commandWrite (c : Word) (s : State) : perform (commandWrite c) s = issueCommand c s := rfl

end Sys2Proof.Machine
end

