-- ==== Sys2Proof/Laws/PerInstr.lean ====
section
/-! SUPPORT. Laws/PerInstr.lean: statements about every command as syntax, one lemma per constructor. -/

namespace Sys2Proof.Laws.EncodingRow

/-- The word of a command agrees with its row of R83: masked it gives the row's match word, and the match word
itself lies under the mask. -/
def Statement (i : Instr) : Prop :=
  encode i &&& i.mask = i.matchWord ∧ i.matchWord &&& i.mask = i.matchWord

theorem nop : Statement .nop := by unfold Statement; decide
theorem clrerr : Statement .clrerr := by unfold Statement; decide
theorem tblinit : Statement .tblinit := by unfold Statement; decide

theorem synth (pattern : Nat) : Statement (.synth pattern) := by
  have hm : 0x00000011#32 &&& 0xFFFF00FF#32 = 0x00000011#32 := by decide
  refine ⟨?_, hm⟩
  have h : ∀ v : Byte, (0#16 ++ v ++ 0x11#8 : BitVec 32) &&& 0xFFFF00FF#32 = 0x00000011#32 := by decide
  exact h (BitVec.ofNat 8 pattern)

theorem extract : Statement .extract := by unfold Statement; decide
theorem encf : Statement .encf := by unfold Statement; decide
theorem decf : Statement .decf := by unfold Statement; decide
theorem sha256 : Statement .sha256 := by unfold Statement; decide
theorem crc32 : Statement .crc32 := by unfold Statement; decide
theorem pktcrc : Statement .pktcrc := by unfold Statement; decide
theorem pktvfy : Statement .pktvfy := by unfold Statement; decide

end Sys2Proof.Laws.EncodingRow
end

