-- ==== Sys2Proof/Tests/Slice0.lean ====
section
/-! SUPPORT. Tests/Slice0.lean: the model against numbers written in the spec (95_test_vectors.md and the examples of the
rules), and for each statement of Obligations.lean with premises a state that meets them. -/

open Sys2Proof Sys2Proof.Machine

-- One theorem after another: kernel evaluations that wait for each other would each hold a thread's stack.
set_option Elab.async false

namespace Sys2Proof.Tests

/-! ## Helpers -/

/-- The state a command ends in; `State.reset` stands for a stop, which no test runs into. -/
def after (o : Host.Outcome State Fault Refusal) : State :=
  match o with
  | .next s => s
  | .fault _ => State.reset
  | .refused _ => State.reset

/-- One step with a command word as the host's next move. -/
def run (s : State) (c : Nat) : State := after (step (s.withFetchWord 32 c))

/-- One step with one move of the host. -/
def move (s : State) (a : HostAction) : State := after (step (s.setHost [a]))

/-- The build `(B, S)` with `MEM_SIZE = 0x10000`, as 95_test_vectors.md writes it. -/
def build (b p : Nat) : Build := { cfgB := BitVec.ofNat 32 b, cfgS := BitVec.ofNat 32 p, memSize := 0x10000 }

/-- Bytes in `MEM` from an address on. -/
def bytesAt (a : Nat) (bytes : List Nat) : Memory :=
  Memory.storeAll (bytes.zipIdx.map fun c => (a + c.2, BitVec.ofNat 8 c.1)) []

/-- `setfv 0x1000, w, h, stride` and `setbuf ptr, len` on the operand registers. -/
def frameRegs (w h stride ptr len : Word) : OperandRegs :=
  { OperandRegs.reset with fvPtr := 0x1000, fvWidth := w, fvHeight := h, fvStride := stride, bufPtr := ptr, bufLen := len }

/-! ## Decoding: one word per command, written out from R83 -/

theorem test_decode_nop : decode 0b00000000000000000000000000000001#32 = .ok .nop := by decide
theorem test_decode_clrerr : decode 0b00000000000000000000000000000010#32 = .ok .clrerr := by decide
theorem test_decode_tblinit : decode 0b00000000000000000000000000010000#32 = .ok .tblinit := by decide
theorem test_decode_synth : decode 0b00000000000000001010010100010001#32 = .ok (.synth 0xA5) := by decide
theorem test_decode_extract : decode 0b00000000000000000000000000010010#32 = .ok .extract := by decide
theorem test_decode_encf : decode 0b00000000000000000000000000100000#32 = .ok .encf := by decide
theorem test_decode_decf : decode 0b00000000000000000000000000100001#32 = .ok .decf := by decide
theorem test_decode_sha256 : decode 0b00000000000000000000000000110000#32 = .ok .sha256 := by decide
theorem test_decode_crc32 : decode 0b00000000000000000000000001000000#32 = .ok .crc32 := by decide
theorem test_decode_pktcrc : decode 0b00000000000000000000000001000001#32 = .ok .pktcrc := by decide
theorem test_decode_pktvfy : decode 0b00000000000000000000000001000010#32 = .ok .pktvfy := by decide

/-- 95_test_vectors.md section 8. -/
theorem test_decode_zero_is_illegal : decode 0#32 = .error .unlistedOpcode := by decide
theorem test_decode_immediate_of_format_z : decode 0x00000120#32 = .error .immediateNotZero := by decide
theorem test_decode_high_bits : decode 0x00010011#32 = .error .highBitsNotZero := by decide
theorem test_decode_table_word : decodeTableWord 32 0x00000A11 = some (.synth 10) := by decide

/-- The one check of `Instr.wellFormed` refuses an immediate of nine bits. -/
theorem test_ill_formed_pattern : (Instr.synth 256).wellFormed = false := by decide

/-! ## Commands -/

/-- R210's example: `STATUS = 0x00000405`, then `nop`. -/
theorem test_nop_keeps_sticky : (run (run State.reset 0x1011) 0x01).statusWord = 0x00000005#32 := by decide +kernel

/-- R211's example, on `B = 3`: `STATUS = 0x00000206`, then `clrerr`. -/
theorem test_clrerr_keeps_fault :
    (run (run (State.resetOf (build 3 0x42000000)) 0x10) 0x02).statusWord = 0x00000002#32 := by decide +kernel

/-- 95_test_vectors.md section 2.6. -/
theorem test_tblinit_status : (run State.reset 0x10).statusWord = 0x00000001#32 := by decide +kernel
theorem test_tblinit_refuses_infinity :
    (run (State.resetOf (build 4 0x7F800000)) 0x10).statusWord = 0x00000206#32 := by decide +kernel

/-- R130's example: the first row of `PAT[10]`. -/
theorem test_synth_first_row :
    (run State.reset 0xA11).blk.toList.take 8 = [130, 131, 132, 130, 125, 117, 109, 103] := by decide +kernel
theorem test_synth_out_of_range : (run State.reset 0x1011).statusWord = 0x00000405#32 := by decide +kernel

/-- 95_test_vectors.md section 3.3: the clamp at work in the build `(1, 1024.0)`. -/
theorem test_synth_clamps :
    (run (State.resetOf (build 1 0x44800000)) 0x111).blk.toList.take 8 = [255, 255, 228, 163, 92, 27, 0, 0] := by
  decide +kernel

/-- 95_test_vectors.md section 4.4: single bright pixels. -/
theorem test_extract_corner :
    (run (State.reset.setBlk (State.reset.blk.set 7 200)) 0x12).result = 5#32 := by decide +kernel
theorem test_extract_from_reset : (run State.reset 0x12).result = 0#32 := by decide +kernel

/-- The payload `1E` at 0x100 and a frame of two blocks (95_test_vectors.md section 5.3). -/
def payload1E : State :=
  (State.reset.setOperands (frameRegs 16 8 16 0x100 1)).setMem (bytesAt 0x100 [0x1E])

/-- 95_test_vectors.md section 5.3, row 0 of the frame. -/
theorem test_encf_row0 :
    (run payload1E 0x20).mem.readBytes 0x1000 16 =
      [0x72, 0x71, 0x70, 0x72, 0x77, 0x7F, 0x87, 0x8C, 0x8D, 0x8E, 0x8F, 0x8D, 0x88, 0x80, 0x78, 0x73] := by
  decide +kernel

/-- 95_test_vectors.md section 5.7: a buffer inside the row padding meets the span. -/
theorem test_encf_overlap :
    (run (State.reset.setOperands (frameRegs 16 16 32 0x1010 2)) 0x20).statusWord = 0x00000605#32 := by decide +kernel

/-- The two half-bright blocks of 95_test_vectors.md section 4.4 side by side: left half (pattern 8), top half (pattern 4). -/
def halfBright : State :=
  (State.reset.setOperands (frameRegs 16 8 16 0x200 4)).setMem
    ((List.range 8).flatMap fun x =>
      bytesAt (0x1000 + 16 * x)
        ([255, 255, 255, 255, 0, 0, 0, 0] ++ List.replicate 8 (if x < 4 then 255 else 0)))

theorem test_decf_byte : (run halfBright 0x21).mem.read 0x200 = 0x84#8 := by decide +kernel
theorem test_decf_result : (run halfBright 0x21).result = 1#32 := by decide +kernel

/-- "abc" at 0x100 (R170's example). -/
def abcBuffer : State :=
  (State.reset.setOperands (frameRegs 0 0 0 0x100 3)).setMem (bytesAt 0x100 [0x61, 0x62, 0x63])

theorem test_sha256_abc :
    (run abcBuffer 0x30).digest = #v[0xba7816bf#32, 0x8f01cfea#32, 0x414140de#32, 0x5dae2223#32,
      0xb00361a3#32, 0x96177a9c#32, 0xb410ff61#32, 0xf20015ad#32] := by decide +kernel

/-- 95_test_vectors.md section 7.4: an empty message ignores `BUF_PTR`. -/
theorem test_sha256_empty :
    (run (State.reset.setOperands (frameRegs 0 0 0 0xFFFFFFFF 0)) 0x30).digest[0] = 0xe3b0c442#32 := by decide +kernel

/-- The header of R194's example at 0x100 with a given checksum field, the payload `31 .. 39` at 0x200. -/
def packet (field : List Nat) : State :=
  (State.reset.setOperands { OperandRegs.reset with
      bufPtr := 0x100, bufLen := 12, auxPtr := 0x200, auxLen := 9, crcSeed := 0x12345678, crcOffset := 8, crcSize := 4 }).setMem
    (bytesAt 0x100 ([0x4D, 0x41, 0x47, 0x31, 0x02, 0x00, 0x10, 0x00] ++ field)
      ++ bytesAt 0x200 [0x31, 0x32, 0x33, 0x34, 0x35, 0x36, 0x37, 0x38, 0x39])

/-- 95_test_vectors.md section 6.2: "123456789" with the seed `0x12345678`. -/
theorem test_crc32_seed :
    (run ((packet []).setOperands { (packet []).operands with bufPtr := 0x200, bufLen := 9 }) 0x40).result
      = 0xD512AEC1#32 := by decide +kernel

/-- R194's example. -/
theorem test_pktcrc : (run (packet [0xDE, 0xAD, 0xBE, 0xEF]) 0x41).result = 0x530A5E72#32 := by decide +kernel

/-- R196's example, and its mismatch. -/
theorem test_pktvfy_true : (run (packet [0x72, 0x5E, 0x0A, 0x53]) 0x42).result = 1#32 := by decide +kernel
theorem test_pktvfy_false : (run (packet [0x73, 0x5E, 0x0A, 0x53]) 0x42).statusWord = 0#32 := by decide +kernel

/-! ## The machine -/

/-- 95_test_vectors.md section 9, step 7. -/
theorem test_illegal_word_status : (run State.reset 0).statusWord = 0x00000104#32 := by decide

/-- A write of `CMD` runs as the first step after reset. -/
theorem test_fetch_word_runs : step (State.reset.withFetchWord 32 0x01) = .next State.reset := by rfl

/-- 95_test_vectors.md section 2.5: `PROJ[2][27]` through the table window, and before construction. -/
theorem test_window_read :
    (move (run State.reset 0x10) (.read .word 0x1A6C#13)).replies = [0x3D1BE50C#32] := by decide +kernel
theorem test_window_before : (move State.reset (.read .word 0x1A6C#13)).replies = [0#32] := by decide

/-- 95_test_vectors.md section 9, step 4: a write to a read-only register is ignored. -/
theorem test_cfg_b_read_only : move State.reset (wr .cfgB 8#32) = State.reset := by rfl

/-- R31: the first word of `BLK` after `synth 0xA` (95_test_vectors.md section 3.6). -/
theorem test_blk_word : (move (run State.reset 0xA11) (rd (.blk 0))).replies = [0x82848382#32] := by decide +kernel

/-- R35: a misaligned access is refused. -/
theorem test_misaligned_refused :
    step (State.reset.setHost [.read .word 0x006#13]) = .refused (.registerAccessUndefined .word 0x006#13) := by rfl

/-- R51: an address at `MEM_SIZE` does not exist. -/
theorem test_host_address_outside :
    step (State.reset.setHost [.memRead 0x10000#32]) = .fault (.hostAddressOutsideMem 0x10000) := by rfl

/-- R37: reset clears `RESULT` and the tables. -/
theorem test_reset_clears : (move (run halfBright 0x21) .reset).result = 0#32 := by decide +kernel

/-- 95_test_vectors.md section 2.2: a gain that rounds, and one that underflows to zero. -/
theorem test_gain_rounds : F32.toBits (embedGain (F32.ofBits 0x7F7FFFFF#32) 0) = 0x7E3504F2#32 := by decide +kernel
theorem test_gain_underflows : embedGain (F32.ofBits 0x00000001#32) 2 = 0 := by decide +kernel

/-- 95_test_vectors.md section 11: a V1 packet followed by a V2 packet gives two packets of the V1 size. -/
def exampleConstants : PacketConstants :=
  { magicId := 0x3147414D#32, versionIdV2 := 2#8, headerSizeV1 := 8, headerSizeV2 := 12, symbolSize := 4 }

def examplePacket (version : Byte) (n : Nat) : List Byte := [0x4D, 0x41, 0x47, 0x31, version] ++ List.replicate (n - 5) 7

theorem test_framer_row7 :
    extractPackets exampleConstants (examplePacket 1 12 ++ examplePacket 2 16)
      = some [examplePacket 1 12, (examplePacket 2 16).take 12] := by decide +kernel

/-- 95_test_vectors.md section 11: the first digest word of "abc". -/
theorem test_hex : hexRender [0xba, 0x78, 0x16, 0xbf] = "ba7816bf".toList := by decide +kernel

/-! ## Witnesses: states and operands that meet a statement's premises -/

/-- A failed machine of an illegal build. -/
def refusedBuild : State := run (State.resetOf (build 3 0x42000000)) 0x10

/-- The build `(1, 1024.0)` with the payload `B4` at 0x100 and a frame of eight blocks (95_test_vectors.md section 5.5). -/
def payloadB4 : State :=
  ((State.resetOf (build 1 0x44800000)).setOperands (frameRegs 64 8 64 0x100 1)).setMem (bytesAt 0x100 [0xB4])

/-- Patterns 0 and 255 are the ends of what an encoding holds. -/
theorem witness_EncodedCommandDecodesBack :
    (Instr.synth 0).wellFormed = true ∧ (Instr.synth 255).wellFormed = true := by decide

theorem witness_DecodedWordIsTheEncoding : decode 0x0000FF11#32 = .ok (.synth 255) := by decide

theorem witness_WriteToCmdRunsTheCommand :
    (State.reset.setHost [.write .word 0x000#13 0x20#32]).host = .write .word 0x000#13 0x20#32 :: [] ∧
    decode 0x20#32 = .ok .encf ∧
    (State.reset.setHost [.read .word 0x000#13]).host = .read .word 0x000#13 :: [] := ⟨rfl, by decide, rfl⟩

theorem witness_IllegalWordOnlySetsTheError :
    (State.reset.withFetchWord 32 0xFF).host = .write .word 0x000#13 0xFF#32 :: [] ∧
    decode 0xFF#32 = .error .unlistedOpcode := ⟨rfl, by decide⟩

/-- Both clauses: tables there, and tables to be constructed. -/
theorem witness_TblinitConstructsTheTablesOnce :
    (run State.reset 0x10).tables = some State.reset.build.tables ∧
    State.reset.tables = none ∧ State.reset.status.cfgFault = false ∧ State.reset.build.legal = true :=
  ⟨rfl, rfl, rfl, by decide⟩

/-- Both reasons: a fault from before, and a build found illegal now. -/
theorem witness_TableCommandsRefuseAnIllegalBuild :
    Instr.encf.usesTables = true ∧ refusedBuild.tables = none ∧ refusedBuild.status.cfgFault = true ∧
    (State.resetOf (build 8 0x42000000)).tables = none ∧ (State.resetOf (build 8 0x42000000)).build.legal = false := by
  decide +kernel

/-- A tie: `q` halfway between the values 0 and 1 unit, and a second representable value equally near. -/
theorem witness_RoundingIsToNearestTiesToEven :
    F32.Representable 1 ∧ (1 : Int) ≠ F32.rn (2 ^ 148) ∧
    |F32.rn (2 ^ 148) * 2 ^ 149 - 2 ^ 148| = |(1 : Int) * 2 ^ 149 - 2 ^ 148| :=
  ⟨⟨1, 0, by decide, by decide⟩, by decide +kernel, by decide +kernel⟩

/-- The least and the greatest positive finite pattern, and the greatest value. -/
theorem witness_PatternAndValueAreInverse :
    F32.exponentField 0x00000001#32 ≠ 255 ∧ F32.exponentField 0x7F7FFFFF#32 ≠ 255 ∧
    F32.Representable ((2 ^ 24 - 1) * 2 ^ 253) ∧ ((2 ^ 24 - 1) * 2 ^ 253 : Int).natAbs < 2 ^ 277 :=
  ⟨by decide, by decide, ⟨2 ^ 24 - 1, 253, by decide, by decide +kernel⟩, by decide +kernel⟩

theorem witness_NoTableEntryOverflows : legalS 0x00000001#32 = true ∧ legalS 0x7F7FFFFF#32 = true := by decide

theorem witness_PatternBytesAreClampedTruncatedSums : (15 : Nat) < 2 ^ 4 ∧ (63 : Nat) < 64 := by decide

/-- The reset state can construct its tables. -/
theorem reset_usableTables : State.reset.usableTables = some State.reset.build.tables := by
  have h : State.reset.status.cfgFault = false ∧ State.reset.build.legal = true := ⟨rfl, by decide⟩
  simp only [State.usableTables, show State.reset.tables = none from rfl, if_pos h]

/-- Both clauses, at the greatest legal and the least illegal pattern. -/
theorem witness_SynthPutsThePatternIntoBlk :
    State.reset.usableTables = some State.reset.build.tables ∧ 15 < 2 ^ State.reset.bits ∧ 2 ^ State.reset.bits ≤ 16 :=
  ⟨reset_usableTables, by decide, by decide⟩

theorem witness_ExtractThresholdsTheProjections :
    State.reset.usableTables = some State.reset.build.tables ∧ State.reset.build.legal = true :=
  ⟨reset_usableTables, by decide⟩

/-- A zero sum of a block that is not constant: the checkerboard of 95_test_vectors.md section 4.4. -/
theorem witness_TiesExtractAsZero :
    (build 1 0x44800000).legal = true ∧ 0 < (build 1 0x44800000).bits ∧
    blockSum ((build 1 0x44800000).tables.proj.getD 0 [])
      (flatten64 fun x y => if (x + y) % 2 = 0 then 255#8 else 0#8) = 0 := by decide +kernel

theorem witness_UniformShiftKeepsThePattern :
    Build.reference.legal = true ∧
    ∀ k < 64, (((List.replicate 64 (255#8 : Byte)).getD k 0).toNat : Int) =
      ((List.replicate 64 (252#8 : Byte)).getD k 0).toNat + 3 := by decide +kernel

theorem witness_ExtractorSumsFitTheAccumulator : (3 : Nat) < 4 ∧ Finset.range 64 ⊆ Finset.range 64 := ⟨by decide, subset_rfl⟩

/-- The premises on the state of `EncfWritesTheTilesOfThePayload`: one payload byte, eight blocks. -/
theorem witness_EncfWritesTheTilesOfThePayload :
    payloadB4.mem.wf = true ∧ payloadB4.usableTables = some payloadB4.build.tables ∧
    payloadB4.operands.fvWidth.toNat % 8 = 0 ∧ payloadB4.operands.fvHeight.toNat % 8 = 0 ∧
    payloadB4.operands.fvWidth.toNat ≤ payloadB4.operands.fvStride.toNat ∧
    payloadB4.operands.bufLen.toNat = (64 / 8) * (8 / 8) / (8 / payloadB4.bits) ∧
    0x100 + 1 ≤ payloadB4.memSize ∧ 0x1000 + (7 * 64 + 64) ≤ payloadB4.memSize := by
  refine ⟨by decide +kernel, ?_, by decide +kernel⟩
  have h : payloadB4.status.cfgFault = false ∧ payloadB4.build.legal = true := ⟨rfl, by decide⟩
  simp only [State.usableTables, show payloadB4.tables = none from rfl, if_pos h]

/-- The premises of `DecfRecoversTheBytesOfTheFrame`: two blocks, room for four bytes. -/
theorem witness_DecfRecoversTheBytesOfTheFrame :
    halfBright.mem.wf = true ∧ halfBright.build.legal = true ∧
    halfBright.usableTables = some halfBright.build.tables ∧
    halfBright.operands.fvWidth.toNat % 8 = 0 ∧ halfBright.operands.fvHeight.toNat % 8 = 0 ∧
    halfBright.operands.fvWidth.toNat ≤ halfBright.operands.fvStride.toNat ∧
    (16 / 8) * (8 / 8) / (8 / halfBright.bits) ≤ halfBright.operands.bufLen.toNat ∧
    0x200 + 1 ≤ halfBright.memSize ∧ 0x1000 + (7 * 16 + 16) ≤ halfBright.memSize := by
  refine ⟨by decide +kernel, by decide, ?_, by decide +kernel⟩
  have h : halfBright.status.cfgFault = false ∧ halfBright.build.legal = true := ⟨rfl, by decide⟩
  simp only [State.usableTables, show halfBright.tables = none from rfl, if_pos h]

/-- The four causes, each on operands that let the checks before it pass (95_test_vectors.md section 5.7). -/
theorem witness_FrameCommandsReportTheFirstCause :
    State.reset.usableTables = some State.reset.build.tables ∧
    (12 % 8 ≠ 0) ∧ (3 ≠ (16 / 8) * (16 / 8) / (8 / State.reset.bits)) ∧
    (State.reset.memSize < 0xFFFF + 2) ∧ (State.reset.memSize < 0xFF01 + (15 * 16 + 16)) ∧
    (0x10FF + 2 ≤ State.reset.memSize ∧ 0x1000 + (15 * 16 + 16) ≤ State.reset.memSize ∧
      0x10FF < 0x1000 + (15 * 16 + 16) ∧ 0x1000 < 0x10FF + 2) :=
  ⟨reset_usableTables, by decide⟩

/-- All premises of `DecfGivesBackWhatEncfWrote`: both patterns of the build `(1, 1024.0)` round-trip, `ENCF` succeeds. -/
theorem witness_DecfGivesBackWhatEncfWrote :
    payloadB4.mem.wf = true ∧ payloadB4.build.legal = true ∧
    (∀ p < 2 ^ payloadB4.bits, extractPattern payloadB4.bits payloadB4.build.tables.proj
      (payloadB4.build.tables.pat.getD p []) = p) ∧
    exec .encf payloadB4 = .next (after (exec .encf payloadB4)) ∧ (after (exec .encf payloadB4)).status.err = .ok ∧
    payloadB4.operands.bufLen.toNat ≤ (0x10#32).toNat ∧
    (0x200#32).toNat + payloadB4.operands.bufLen.toNat ≤ payloadB4.memSize ∧
    (0x200#32).toNat + payloadB4.operands.bufLen.toNat ≤ payloadB4.operands.fvPtr.toNat :=
  ⟨by decide +kernel, by decide, by decide +kernel, rfl, by decide +kernel, by decide +kernel⟩

/-- `DECF` has a plan with one store. -/
theorem witness_DecfEqualsTheSequentialLoop :
    halfBright.mem.wf = true ∧ decfPlan halfBright =
      .ok (halfBright.setTables (some halfBright.build.tables),
        decfStores (halfBright.setTables (some halfBright.build.tables)) halfBright.build.tables) ∧
    halfBright.usableTables = some halfBright.build.tables :=
  ⟨by decide +kernel, rfl, witness_DecfRecoversTheBytesOfTheFrame.2.2.1⟩

/-- Both clauses at the edge of `MEM` (95_test_vectors.md section 7.4). -/
theorem witness_ShaWritesTheDigestOfTheBuffer :
    (0xFFFF + 1 ≤ State.reset.memSize) ∧ (0 < 2 ∧ State.reset.memSize < 0xFFFF + 2) := by decide

theorem witness_ShaScheduleIsTheRecurrence : (List.replicate 64 (0#8 : Byte)).length = 64 := by decide

theorem witness_CrcWritesTheSeededCrcOfTheBuffer :
    (0xFFFF + 1 ≤ State.reset.memSize) ∧ (0 < 2 ∧ State.reset.memSize < 0xFFFF + 2) := by decide

/-- The premises of `PktcrcWritesThePacketCrc` and `PktvfyComparesTheStoredCrc`: the field at the end of the header. -/
theorem witness_PktcrcWritesThePacketCrc :
    (packet []).operands.crcSize = 4#32 ∧ (packet []).operands.crcOffset.toNat + 4 ≤ (packet []).operands.bufLen.toNat ∧
    (packet []).operands.bufPtr.toNat + (packet []).operands.bufLen.toNat ≤ (packet []).memSize ∧
    (packet []).operands.auxPtr.toNat + (packet []).operands.auxLen.toNat ≤ (packet []).memSize := by decide

theorem witness_PktvfyComparesTheStoredCrc :
    (packet [0x72, 0x5E, 0x0A, 0x53]).operands.crcSize = 4#32 ∧
    (run (packet [0x72, 0x5E, 0x0A, 0x53]) 0x42).result = 1#32 := ⟨rfl, test_pktvfy_true⟩

/-- The three causes (95_test_vectors.md section 6.3). -/
theorem witness_PacketCommandsReportTheFirstCause :
    ({ (packet []).operands with crcSize := 2 }.crcSize ≠ 4#32) ∧
    ((packet []).operands.crcSize = 4#32 ∧ (packet []).operands.bufLen.toNat < 9 + 4) ∧
    ((packet []).memSize < 0xFFF8 + (packet []).operands.bufLen.toNat) ∧
    (0 < (packet []).operands.auxLen.toNat ∧ (packet []).memSize < 0xFFFC + (packet []).operands.auxLen.toNat) := by
  decide

theorem witness_ChecksumFieldDoesNotInfluenceThePacketCrc :
    ([1#8, 2#8, 3#8, 4#8, 5#8] : List Byte).length = [9#8, 9#8, 9#8, 9#8, 5#8].length ∧
    0 + 4 ≤ [9#8, 9#8, 9#8, 9#8, (5#8 : Byte)].length ∧
    ∀ i, (i < 0 ∨ 0 + 4 ≤ i) →
      ([1#8, 2#8, 3#8, 4#8, 5#8] : List Byte).getD i 0 = [9#8, 9#8, 9#8, 9#8, 5#8].getD i 0 := by
  refine ⟨rfl, by decide, fun i hi => ?_⟩
  obtain ⟨j, rfl⟩ : ∃ j, i = j + 4 := ⟨i - 4, by omega⟩
  rfl

/-- R194's example packet: `PKTCRC` succeeds and the payload lies apart from the field. -/
theorem witness_StoredPacketCrcVerifies :
    (packet []).mem.wf = true ∧ exec .pktcrc (packet []) = .next (after (exec .pktcrc (packet []))) ∧
    (after (exec .pktcrc (packet []))).status.err = .ok ∧
    (packet []).operands.bufPtr.toNat + (packet []).operands.crcOffset.toNat + 4 ≤ (packet []).operands.auxPtr.toNat :=
  ⟨by decide +kernel, rfl, by decide +kernel, by decide⟩

/-- A verifying packet (R196's example) and the same with its first byte `4C`. -/
theorem witness_OneChangedByteFailsVerification :
    let header : List Byte := [0x4D, 0x41, 0x47, 0x31, 0x02, 0x00, 0x10, 0x00, 0x72, 0x5E, 0x0A, 0x53]
    let payload : List Byte := [0x31, 0x32, 0x33, 0x34, 0x35, 0x36, 0x37, 0x38, 0x39]
    8 + 4 ≤ header.length ∧ storedCrc header 8 = packetCrc header payload 8 ∧
    (0x4C :: header.tail).length = header.length ∧
    ((0x4C :: header.tail) ++ payload).getD 0 0 ≠ (header ++ payload).getD 0 0 ∧
    ∀ i, i ≠ 0 → ((0x4C :: header.tail) ++ payload).getD i 0 = (header ++ payload).getD i 0 := by
  refine ⟨by decide, by decide +kernel, rfl, by decide, fun i hi => ?_⟩
  obtain ⟨j, rfl⟩ : ∃ j, i = j + 1 := ⟨i - 1, by omega⟩
  rfl

/-- `SYNTH 16` fails on the reset build, having constructed the tables. -/
theorem witness_FailingCommandChangesOnlyTheStatus :
    exec (.synth 16) State.reset = .next (after (exec (.synth 16) State.reset)) ∧
    (after (exec (.synth 16) State.reset)).status.err ≠ .ok := ⟨rfl, by decide +kernel⟩

theorem witness_CommandsWriteOnlyWhatTheTableSays :
    exec .extract State.reset = .next (after (exec .extract State.reset)) ∧
    (run State.reset 0x10).tables = some State.reset.build.tables ∧ refusedBuild.status.cfgFault = true :=
  ⟨rfl, rfl, by decide +kernel⟩

/-- A byte that `DECF` changes. -/
theorem witness_CommandsWriteOnlyTheirRanges :
    halfBright.mem.wf = true ∧ exec .decf halfBright = .next (after (exec .decf halfBright)) ∧
    (after (exec .decf halfBright)).mem.read 0x200 ≠ halfBright.mem.read 0x200 :=
  ⟨by decide +kernel, rfl, by decide +kernel⟩

/-- A failure, a success with the flag set before, and `CLRERR`. -/
theorem witness_StickyFlagRemembersFailures :
    (after (exec (.synth 16) State.reset)).status.err ≠ .ok ∧
    (after (exec .nop (run State.reset 0x1011))).status.err = .ok ∧
    exec .clrerr State.reset = .next (after (exec .clrerr State.reset)) :=
  ⟨by decide +kernel, by decide +kernel, rfl⟩

/-- The reset state, with a move pending, meets the invariant. -/
theorem pending_inv (l : List HostAction) : (State.reset.setHost l).Inv where
  memSizeLegal := by
    show 1 ≤ 0x10000 ∧ 0x10000 ≤ 2 ^ 32
    decide
  memCanonical := rfl
  memExists := rfl
  tablesOfBuild := fun t h => by cases h
  faultMeansIllegal := fun h => by cases h
  errorsAreSticky := fun h => absurd rfl h

theorem witness_StepKeepsTheInvariant :
    (State.reset.setHost [.memWrite 0xFFFF#32 7#8]).Inv ∧
    step (State.reset.setHost [.memWrite 0xFFFF#32 7#8]) =
      .next (after (step (State.reset.setHost [.memWrite 0xFFFF#32 7#8]))) := ⟨pending_inv _, rfl⟩

theorem witness_ResetMeetsTheInvariant :
    1 ≤ (build 1 0).memSize ∧ (build 1 0).memSize ≤ 2 ^ 32 := by decide

/-- Tables there and an `NOP` pending; a fault there; the invariant. -/
theorem witness_TablesAndFaultStayUntilReset :
    (run State.reset 0x10).tables = some State.reset.build.tables ∧
    step ((run State.reset 0x10).withFetchWord 32 1) =
      .next (after (step ((run State.reset 0x10).withFetchWord 32 1))) ∧
    (∀ rest, ((run State.reset 0x10).withFetchWord 32 1).host ≠ .reset :: rest) ∧
    (∀ c rest, ((run State.reset 0x10).withFetchWord 32 1).host ≠ .cutCommand c :: rest) ∧
    refusedBuild.status.cfgFault = true ∧ (State.reset.setHost []).Inv := by
  refine ⟨rfl, rfl, fun rest h => ?_, fun c rest h => ?_, by decide +kernel, pending_inv []⟩
  · cases h
  · cases h

theorem witness_ResetInputKeepsOnlyMem : (halfBright.setHost [.reset]).host = .reset :: [] := rfl

/-- A cut `ENCF` on a frame of one payload byte: the premises of both clauses. -/
theorem witness_CutCommandLeavesOldOrNewBytes :
    payload1E.mem.wf = true ∧ (payload1E.setHost [.cutCommand 0x20#32]).host = .cutCommand 0x20#32 :: [] ∧
    decode 0x20#32 = .ok .encf ∧ exec .encf payload1E = .next (after (exec .encf payload1E)) ∧
    decode 0x00#32 = .error .unlistedOpcode := ⟨by decide +kernel, rfl, by decide, rfl, by decide⟩

/-- The last address of `MEM` and the last word of the register space. -/
theorem witness_DefinedMovesNeverStopTheMachine :
    (State.reset.setHost [.memWrite 0xFFFF#32 7#8]).nextMoveDefined ∧
    (State.reset.setHost [.read .word 0x1FFC#13]).nextMoveDefined ∧ (State.reset.setHost []).nextMoveDefined := by
  refine ⟨fun a rest h => ?_, fun a rest h => ?_, fun a rest h => ?_⟩ <;> cases h <;> decide

/-- A write and a read that are not defined, and reads at the first and the last register. -/
theorem witness_OnlyAlignedWordAccessesAreDefined :
    (State.reset.setHost [.write .half 0x010#13 0#32]).host = .write .half 0x010#13 0#32 :: [] ∧
    (State.reset.setHost [.read .word 0x1FFE#13]).host = .read .word 0x1FFE#13 :: [] ∧
    (0x1FFE#13).toNat % 4 ≠ 0 ∧ (0x1FFC#13).toNat % 4 = 0 ∧
    (State.reset.setHost [.read .word 0x1FFC#13]).host = .read .word 0x1FFC#13 :: [] ∧
    Reg.ofOffset 0x1FFC#13 = some (.window 1023) ∧ Reg.ofOffset 0x000#13 = some .cmd :=
  ⟨rfl, rfl, by decide, by decide, rfl, by decide, by decide⟩

/-- An operand register, and a read-only one. -/
theorem witness_RegisterWritesReachOnlyTheirRegister :
    (State.reset.setHost [.write .word 0x010#13 0xDEADBEEF#32]).host = .write .word 0x010#13 0xDEADBEEF#32 :: [] ∧
    Reg.ofOffset 0x010#13 = some (.operand .fvPtr) ∧ Reg.ofOffset 0x03C#13 = some .result := ⟨rfl, by decide, by decide⟩

/-- The last word of `BLK`. -/
theorem witness_BlkWordsPackLittleEndian :
    (State.reset.setHost [.write .word (BitVec.ofNat 13 (0x100 + 4 * (15 : Fin 16).val)) 1#32]).host =
      .write .word (BitVec.ofNat 13 (0x100 + 4 * (15 : Fin 16).val)) 1#32 :: [] ∧
    (State.reset.setHost [.read .word (BitVec.ofNat 13 (0x100 + 4 * (15 : Fin 16).val))]).host =
      .read .word (BitVec.ofNat 13 (0x100 + 4 * (15 : Fin 16).val)) :: [] := ⟨rfl, rfl⟩

theorem witness_TableWindowShowsTheTables :
    State.reset.tables = none ∧ (run State.reset 0x10).tables = some (run State.reset 0x10).build.tables ∧
    (run State.reset 0x10).build.legal = true := ⟨rfl, rfl, by decide +kernel⟩

/-- The last address of `MEM` stored to, the first one read. -/
theorem witness_HostReadsTheLastByteWritten :
    State.reset.mem.wf = true ∧ (0xFFFF#32).toNat < State.reset.memSize ∧ (0#32).toNat < State.reset.memSize ∧
    (State.reset.setHost [.memWrite 0xFFFF#32 7#8, .memRead 0#32]).host =
      .memWrite 0xFFFF#32 7#8 :: .memRead 0#32 :: [] := ⟨rfl, by decide, by decide, rfl⟩

/-- Two V2 packets and seven trailing bytes. -/
theorem witness_FramerReturnsTheWholePackets :
    16 = packetSize exampleConstants ([examplePacket 2 16, examplePacket 2 16].flatten ++ List.replicate 7 1) ∧
    (∀ p ∈ [examplePacket 2 16, examplePacket 2 16], p.length = 16 ∧ le32 p = exampleConstants.magicId) ∧
    ¬(16 ≤ (List.replicate 7 (1 : Byte)).length) := by decide +kernel

theorem witness_HexRendersHighNibbleFirst : (List.replicate 32 (0xE3#8 : Byte)).length = 32 := by decide

end Sys2Proof.Tests
end

section
/-! Proofs about the numbers of 00_scope.md section 6: binary32 patterns, rounding, the legal builds, and the bound
of R12 on the entries of the tables. -/

namespace Sys2Proof.Machine

namespace F32

/-! ## The fields of a pattern (R9) -/

theorem exponentField_eq (p : Word) : exponentField p = p.toNat / 2 ^ 23 % 2 ^ 8 := by
  simp [exponentField, Nat.shiftRight_eq_div_pow]

theorem fractionField_eq (p : Word) : fractionField p = p.toNat % 2 ^ 23 := by
  simp [fractionField]

theorem exponentField_lt (p : Word) : exponentField p < 2 ^ 8 := (p.extractLsb' 23 8).isLt

theorem fractionField_lt (p : Word) : fractionField p < 2 ^ 23 := (p.extractLsb' 0 23).isLt

/-- A pattern is its sign, exponent and fraction side by side. -/
theorem toNat_eq_fields (p : Word) :
    p.toNat = (if p.msb then 2 ^ 31 else 0) + exponentField p * 2 ^ 23 + fractionField p := by
  rw [exponentField_eq, fractionField_eq, BitVec.msb_eq_decide]
  simp only [decide_eq_true_eq]
  split_ifs <;> omega

/-- The sign, and exponent and fraction as one number `v`, are read back from the pattern they are put into. -/
theorem fields_ofNat (sign : Bool) {v : Nat} (hv : v < 2 ^ 31) :
    let p := BitVec.ofNat 32 ((if sign then 2 ^ 31 else 0) + v)
    p.msb = sign ∧ exponentField p * 2 ^ 23 + fractionField p = v := by
  intro p
  have hp : p.toNat = (if sign then 2 ^ 31 else 0) + v := by
    rw [BitVec.toNat_ofNat]
    cases sign <;> simp <;> omega
  rw [exponentField_eq, fractionField_eq, BitVec.msb_eq_decide, hp]
  cases sign <;> simp <;> omega

/-! ## The form of R9: `m · 2^e` -/

/-- `m · 2^e` is in the form R9 gives a magnitude: normal, or with the exponent of the subnormals. -/
def Canonical (m e : Nat) : Prop := m < 2 ^ 24 ∧ (e = 0 ∨ 2 ^ 23 ≤ m)

theorem scaleOf_of_canonical {m e : Nat} (h : Canonical m e) : scaleOf (m * 2 ^ e) = e := by
  obtain ⟨hm, rfl | hn⟩ := h
  · obtain rfl | h0 := eq_or_ne m 0
    · simp [scaleOf]
    · have := (Nat.log2_lt h0).2 hm
      simp only [scaleOf, pow_zero, mul_one]
      omega
  · have hlog : Nat.log2 (m * 2 ^ e) = 23 + e := by
      rw [Nat.log2_eq_iff (by positivity), pow_add, Nat.add_right_comm, pow_add]
      exact ⟨Nat.mul_le_mul_right _ hn, Nat.mul_lt_mul_of_pos_right hm (by positivity)⟩
    simp [scaleOf, hlog]

/-- Every magnitude, cut off below its scale, is in the form of R9. -/
theorem canonical_scaleOf (n : Nat) : Canonical (n / 2 ^ scaleOf n) (scaleOf n) := by
  obtain rfl | h0 := eq_or_ne n 0
  · simp [Canonical, scaleOf]
  constructor
  · rw [Nat.div_lt_iff_lt_mul (by positivity), ← pow_add, ← Nat.log2_lt h0]
    simp only [scaleOf]
    omega
  · rw [Nat.le_div_iff_mul_le (by positivity), ← pow_add, ← Nat.le_log2 h0]
    simp only [scaleOf]
    omega

/-- Between two neighbours of one scale there is no binary32 value. -/
theorem le_or_ge_of_representable {m e : Nat} (h : Canonical m e) {y : Int} (hy : Representable y) :
    y ≤ (m * 2 ^ e : Nat) ∨ (((m + 1) * 2 ^ e : Nat) : Int) ≤ y := by
  obtain ⟨m', e', hm', hval⟩ := hy
  suffices hnat : m' * 2 ^ e' ≤ m * 2 ^ e ∨ (m + 1) * 2 ^ e ≤ m' * 2 ^ e' by omega
  obtain he | he := le_or_gt e e'
  · -- `y` is a multiple of `2^e`
    obtain ⟨d, rfl⟩ := Nat.exists_eq_add_of_le he
    rw [pow_add, mul_left_comm, mul_comm (2 ^ e)]
    obtain hle | hlt := le_or_gt (m' * 2 ^ d) m
    · exact .inl (Nat.mul_le_mul_right _ hle)
    · exact .inr (Nat.mul_le_mul_right _ hlt)
  · -- `y` is of a lower scale, so it lies below every normal number of scale `e`
    left
    have hn : 2 ^ 23 ≤ m := by
      obtain ⟨-, h0 | hn⟩ := h <;> omega
    calc m' * 2 ^ e' ≤ 2 ^ 24 * 2 ^ e' := Nat.mul_le_mul_right _ hm'.le
      _ = 2 ^ 23 * 2 ^ (e' + 1) := by ring
      _ ≤ m * 2 ^ e := Nat.mul_le_mul hn (Nat.pow_le_pow_right (by decide) he)

/-- A binary32 magnitude is a multiple of its scale. -/
theorem natAbs_eq_of_representable {x : Int} (h : Representable x) :
    x.natAbs / 2 ^ scaleOf x.natAbs * 2 ^ scaleOf x.natAbs = x.natAbs := by
  have habs : Representable (x.natAbs : Int) := h
  have hlt := Nat.lt_div_mul_add (a := x.natAbs) (b := 2 ^ scaleOf x.natAbs) (by positivity)
  have hle := Nat.div_mul_le_self x.natAbs (2 ^ scaleOf x.natAbs)
  obtain h1 | h1 := le_or_ge_of_representable (canonical_scaleOf x.natAbs) habs
  · omega
  · rw [add_mul] at h1
    omega

theorem representable_neg {x : Int} : Representable (-x) ↔ Representable x := by
  simp [Representable]

theorem evenSignificand_neg {x : Int} : EvenSignificand (-x) ↔ EvenSignificand x := by
  simp [EvenSignificand]

theorem representable_of_canonical {m e : Nat} (h : Canonical m e) : Representable (m * 2 ^ e : Nat) :=
  ⟨m, e, h.1, rfl⟩

theorem evenSignificand_of_canonical {m e : Nat} (h : Canonical m e) (hm : m % 2 = 0) :
    EvenSignificand (m * 2 ^ e : Nat) :=
  ⟨m, e, h.1, h.2, rfl, hm⟩

/-- The neighbour above a magnitude in the form of R9 has that form too, at the next scale if need be; an odd `m`
is followed by an even one. -/
theorem canonical_succ {m e : Nat} (h : Canonical m e) :
    ∃ m' e', Canonical m' e' ∧ (m + 1) * 2 ^ e = m' * 2 ^ e' ∧ (m % 2 = 1 → m' % 2 = 0) := by
  obtain ⟨hm, he⟩ := h
  obtain hlt | heq : m + 1 < 2 ^ 24 ∨ m + 1 = 2 ^ 24 := by omega
  · exact ⟨m + 1, e, ⟨hlt, by omega⟩, rfl, by omega⟩
  · exact ⟨2 ^ 23, e + 1, ⟨by decide, .inr le_rfl⟩, by rw [heq]; ring, fun _ => by decide⟩

/-! ## Rounding (R10) -/

/-- What rounding a magnitude can do: `n` lies between neighbours `lo` and `hi` of one scale, and the nearer one is
taken, of two equally near the one with an even `m`. -/
theorem roundMagnitude_cases (n : Nat) : ∃ m e lo hi, Canonical m e ∧ lo = m * 2 ^ e ∧ hi = (m + 1) * 2 ^ e ∧
    lo * 2 ^ 149 ≤ n ∧ n < hi * 2 ^ 149 ∧
    (roundMagnitude n = lo ∧ (2 * n < (lo + hi) * 2 ^ 149 ∨ 2 * n = (lo + hi) * 2 ^ 149 ∧ m % 2 = 0) ∨
      roundMagnitude n = hi ∧ ((lo + hi) * 2 ^ 149 < 2 * n ∨ 2 * n = (lo + hi) * 2 ^ 149 ∧ m % 2 = 1)) := by
  have hscale : max (Nat.log2 n - 23) 149 = scaleOf (n / 2 ^ 149) + 149 := by
    rw [scaleOf, Nat.log2_eq_log_two, Nat.log2_eq_log_two, Nat.log_div_base_pow]
    omega
  have hm : n / 2 ^ 149 / 2 ^ scaleOf (n / 2 ^ 149) = n / 2 ^ (scaleOf (n / 2 ^ 149) + 149) := by
    rw [Nat.div_div_eq_div_mul, pow_add, mul_comm]
  have hcan := canonical_scaleOf (n / 2 ^ 149)
  rw [hm] at hcan
  refine ⟨_, _, _, _, hcan, rfl, rfl, ?_⟩
  simp only [roundMagnitude, hscale, Nat.add_sub_cancel]
  generalize scaleOf (n / 2 ^ 149) = e
  have hn := Nat.div_add_mod n (2 ^ (e + 149))
  have hrest := Nat.mod_lt n (show 0 < 2 ^ (e + 149) by positivity)
  generalize n / 2 ^ (e + 149) = m at *
  generalize n % 2 ^ (e + 149) = rest at *
  -- with `2 ^ 149` opaque, all distances are sums of the two products `low` and `gap`
  rw [pow_add] at *
  generalize 2 ^ 149 = unit at *
  have hlo : 2 ^ e * unit * m = m * 2 ^ e * unit := by ring
  have hhi : (m + 1) * 2 ^ e * unit = m * 2 ^ e * unit + 2 ^ e * unit := by ring
  rw [add_mul (m * 2 ^ e), hhi]
  rw [hlo] at hn
  generalize m * 2 ^ e * unit = low at *
  generalize 2 ^ e * unit = gap at *
  split_ifs with hup
  · exact ⟨by omega, by omega, .inr ⟨rfl, by omega⟩⟩
  · exact ⟨by omega, by omega, .inl ⟨rfl, by omega⟩⟩

/-- What R10 asks of a rounded value `x` of the number `q`: a binary32 value, none nearer, and on a tie the one with
an even `m`. -/
def NearestEven (q x : Int) : Prop :=
  Representable x ∧ ∀ y : Int, Representable y →
    |x * 2 ^ 149 - q| ≤ |y * 2 ^ 149 - q| ∧
    (y ≠ x → |x * 2 ^ 149 - q| = |y * 2 ^ 149 - q| → EvenSignificand x)

theorem NearestEven.neg {q x : Int} (h : NearestEven q x) : NearestEven (-q) (-x) := by
  have hdist : ∀ y : Int, |y * 2 ^ 149 - -q| = |-y * 2 ^ 149 - q| := fun y => by
    rw [← abs_neg]
    congr 1
    ring
  refine ⟨representable_neg.2 h.1, fun y hy => ?_⟩
  obtain ⟨hle, heven⟩ := h.2 (-y) (representable_neg.2 hy)
  rw [hdist, hdist, neg_neg, evenSignificand_neg]
  exact ⟨hle, fun hne => heven fun hxy => hne (by omega)⟩

/-- With `q` between neighbours `lo` and `hi`, taking the nearer one, with an even `m` on a tie, is what R10 asks. -/
theorem nearestEven_of_neighbours {q lo hi x : Int} (hlo : lo * 2 ^ 149 ≤ q) (hhi : q < hi * 2 ^ 149)
    (hgap : ∀ y : Int, Representable y → y ≤ lo ∨ hi ≤ y) (hx : Representable x)
    (hside : x = lo ∧ 2 * q ≤ (lo + hi) * 2 ^ 149 ∨ x = hi ∧ (lo + hi) * 2 ^ 149 ≤ 2 * q)
    (htie : 2 * q = (lo + hi) * 2 ^ 149 → EvenSignificand x) : NearestEven q x := by
  refine ⟨hx, fun y hy => ?_⟩
  have hdist : |x * 2 ^ 149 - q| ≤ |y * 2 ^ 149 - q| ∧
      (y ≠ x → |x * 2 ^ 149 - q| = |y * 2 ^ 149 - q| → 2 * q = (lo + hi) * 2 ^ 149) := by
    have hdx := abs_cases (x * 2 ^ 149 - q)
    have hdy := abs_cases (y * 2 ^ 149 - q)
    obtain ⟨rfl, hside⟩ | ⟨rfl, hside⟩ := hside <;> obtain hy | hy := hgap y hy <;>
      exact ⟨by omega, fun hne heq => by omega⟩
  exact ⟨hdist.1, fun hne heq => htie (hdist.2 hne heq)⟩

theorem nearestEven_roundMagnitude (n : Nat) : NearestEven n (roundMagnitude n) := by
  obtain ⟨m, e, lo, hi, hc, rfl, rfl, hlo, hhi, hside⟩ := roundMagnitude_cases n
  obtain ⟨m', e', hc', hnext, hparity⟩ := canonical_succ hc
  have hgap := fun y : Int => le_or_ge_of_representable hc (y := y)
  rw [hnext] at hhi hside hgap
  have hrep := representable_of_canonical hc
  have hrep' := representable_of_canonical hc'
  have heven := evenSignificand_of_canonical hc
  have heven' := evenSignificand_of_canonical hc'
  generalize m * 2 ^ e = lo at *
  generalize m' * 2 ^ e' = hi at *
  obtain ⟨hx, hnear⟩ | ⟨hx, hnear⟩ := hside <;> rw [hx]
  · exact nearestEven_of_neighbours (by omega) (by omega) hgap hrep (.inl ⟨rfl, by omega⟩)
      fun htie => heven (by omega)
  · exact nearestEven_of_neighbours (by omega) (by omega) hgap hrep' (.inr ⟨rfl, by omega⟩)
      fun htie => heven' (hparity (by omega))

theorem nearestEven_rn (q : Int) : NearestEven q (rn q) := by
  have h := nearestEven_roundMagnitude q.natAbs
  rw [rn]
  split_ifs with hq
  · have := h.neg
    rwa [show -(q.natAbs : Int) = q by omega] at this
  · rwa [show (q.natAbs : Int) = q by omega] at h

/-- Rounding stays within every bound that is itself a binary32 value. -/
theorem NearestEven.natAbs_le {q x : Int} {c : Nat} (h : NearestEven q x) (hc : Representable (c : Int))
    (hq : q.natAbs ≤ c * 2 ^ 149) : x.natAbs ≤ c := by
  obtain ⟨hle, -⟩ := h.2 c hc
  obtain ⟨hle', -⟩ := h.2 (-c) (representable_neg.2 hc)
  have hdx := abs_cases (x * 2 ^ 149 - q)
  have hdc := abs_cases ((c : Int) * 2 ^ 149 - q)
  have hdc' := abs_cases (-(c : Int) * 2 ^ 149 - q)
  omega

/-! ## Values and patterns (R9) -/

/-- The magnitude of a pattern in the form of R9; the exponent and fraction fields together are `e · 2^23 + m`. -/
theorem magnitude_canonical (p : Word) : ∃ m e, Canonical m e ∧ magnitude p = m * 2 ^ e ∧
    exponentField p * 2 ^ 23 + fractionField p = e * 2 ^ 23 + m := by
  have hF := fractionField_lt p
  obtain h0 | h0 := eq_or_ne (exponentField p) 0
  · exact ⟨fractionField p, 0, ⟨by omega, .inl rfl⟩, by simp [magnitude, h0], by simp [h0]⟩
  · exact ⟨2 ^ 23 + fractionField p, exponentField p - 1, ⟨by omega, .inr (by omega)⟩,
      by simp [magnitude, h0], by omega⟩

theorem natAbs_ofBits (p : Word) : (ofBits p).natAbs = magnitude p := by
  rw [ofBits]
  split_ifs <;> simp

theorem representable_ofBits (p : Word) : Representable (ofBits p) := by
  obtain ⟨m, e, ⟨hm, -⟩, hval, -⟩ := magnitude_canonical p
  exact ⟨m, e, hm, by rw [natAbs_ofBits, hval]⟩

/-- Only the two patterns of zero have the value zero. -/
theorem magnitude_eq_zero {p : Word} : magnitude p = 0 ↔ p = 0#32 ∨ p = 0x80000000#32 := by
  constructor
  · intro h
    obtain ⟨hE, hF⟩ : exponentField p = 0 ∧ fractionField p = 0 := by
      rw [magnitude] at h
      split_ifs at h with hE
      · exact ⟨hE, h⟩
      · simp at h
    have hp := toNat_eq_fields p
    rw [hE, hF] at hp
    cases hs : p.msb <;> rw [hs] at hp
    · exact .inl (BitVec.eq_of_toNat_eq (by simpa using hp))
    · exact .inr (BitVec.eq_of_toNat_eq (by simpa using hp))
  · rintro (rfl | rfl) <;> decide

theorem ofBits_pos {p : Word} : 0 < ofBits p ↔ p.msb = false ∧ magnitude p ≠ 0 := by
  rw [ofBits]
  cases p.msb <;> simp [Nat.pos_iff_ne_zero]

theorem ofBits_neg {p : Word} : ofBits p < 0 ↔ p.msb = true ∧ magnitude p ≠ 0 := by
  rw [ofBits]
  cases p.msb <;> simp [Nat.pos_iff_ne_zero]

theorem toBits_ofBits {p : Word} (hp : p ≠ 0x80000000#32) : toBits (ofBits p) = p := by
  obtain ⟨m, e, hc, hval, hfields⟩ := magnitude_canonical p
  have hsign : ofBits p < 0 ↔ p.msb = true := by
    rw [ofBits_neg, and_iff_left_iff_imp, Ne, magnitude_eq_zero]
    rintro hs (rfl | rfl)
    · exact absurd hs (by decide)
    · exact hp rfl
  apply BitVec.eq_of_toNat_eq
  rw [toBits, natAbs_ofBits, hval, scaleOf_of_canonical hc, Nat.mul_div_cancel _ (by positivity), add_assoc,
    ← hfields, ← add_assoc, BitVec.toNat_ofNat]
  simp only [hsign]
  rw [← toNat_eq_fields, Nat.mod_eq_of_lt p.isLt]

/-- The fields of the pattern of a magnitude below `2^128`: none overflows into the next. -/
theorem fields_toBits {x : Int} (hlt : x.natAbs < 2 ^ 277) :
    (toBits x).msb = decide (x < 0) ∧ exponentField (toBits x) * 2 ^ 23 + fractionField (toBits x) =
      scaleOf x.natAbs * 2 ^ 23 + x.natAbs / 2 ^ scaleOf x.natAbs := by
  have hscale : scaleOf x.natAbs ≤ 253 := by
    obtain h0 | h0 := eq_or_ne x.natAbs 0
    · simp [scaleOf, h0]
    · have := (Nat.log2_lt h0).2 hlt
      rw [scaleOf]
      omega
  obtain ⟨hm, -⟩ := canonical_scaleOf x.natAbs
  have hfields := fields_ofNat (decide (x < 0))
    (show scaleOf x.natAbs * 2 ^ 23 + x.natAbs / 2 ^ scaleOf x.natAbs < 2 ^ 31 by omega)
  simpa only [toBits, add_assoc, decide_eq_true_eq] using hfields

theorem ofBits_toBits {x : Int} (hx : Representable x) (hlt : x.natAbs < 2 ^ 277) : ofBits (toBits x) = x := by
  obtain ⟨hsign, hfields⟩ := fields_toBits hlt
  obtain ⟨m, e, ⟨hm, he⟩, hmag, hsum⟩ := magnitude_canonical (toBits x)
  obtain ⟨hm', he'⟩ := canonical_scaleOf x.natAbs
  obtain ⟨rfl, rfl⟩ : e = scaleOf x.natAbs ∧ m = x.natAbs / 2 ^ scaleOf x.natAbs := by omega
  rw [natAbs_eq_of_representable hx] at hmag
  simp only [ofBits, hsign, hmag, decide_eq_true_eq]
  split_ifs with hneg
  · have : -(x.natAbs : Int) = x := by omega
    exact this
  · have : (x.natAbs : Int) = x := by omega
    exact this

/-- The greatest finite magnitude (R9). -/
theorem natAbs_ofBits_le {p : Word} (h : exponentField p ≠ 255) : (ofBits p).natAbs ≤ (2 ^ 24 - 1) * 2 ^ 253 := by
  obtain ⟨m, e, ⟨hm, he⟩, hval, hsum⟩ := magnitude_canonical p
  have hE := exponentField_lt p
  have hF := fractionField_lt p
  rw [natAbs_ofBits, hval]
  exact Nat.mul_le_mul (by omega) (Nat.pow_le_pow_right (by decide) (by omega))

/-! ## Bounds on products (R12) -/

/-- A binary32 value of magnitude at most `c`. -/
def Within (c : Nat) (x : Int) : Prop := Representable x ∧ x.natAbs ≤ c

theorem Within.belowBound {c : Nat} {x : Int} (h : Within c x) (hc : c < 2 ^ 275) : BelowBound x :=
  ⟨h.1, lt_of_le_of_lt h.2 hc⟩

theorem Within.belowBound_two_pow {k : Nat} {x : Int} (h : Within (2 ^ k) x) (hk : k < 275) : BelowBound x :=
  h.belowBound (by gcongr; decide)

theorem Within.neg {c : Nat} {x : Int} (h : Within c x) : Within c (-x) :=
  ⟨representable_neg.2 h.1, by rw [Int.natAbs_neg]; exact h.2⟩

theorem representable_two_pow (k : Nat) : Representable ((2 ^ k : Nat) : Int) := ⟨1, k, by decide, by simp⟩

/-- The product of two bounded values stays within every binary32 value that bounds the exact product. -/
theorem Within.fmul {a b c : Nat} {x y : Int} (hx : Within a x) (hy : Within b y) (hc : Representable (c : Int))
    (habc : a * b ≤ c * 2 ^ 149) : Within c (fmul x y) := by
  have hnear := nearestEven_rn (x * y)
  refine ⟨hnear.1, hnear.natAbs_le hc ?_⟩
  rw [Int.natAbs_mul]
  exact (Nat.mul_le_mul hx.2 hy.2).trans habc

/-- A product with a value of at most 1 in magnitude does not grow. -/
theorem Within.fmul_one {c : Nat} {x y : Int} (hx : Within c x) (hy : Within (2 ^ 149) y)
    (hc : Representable (c : Int)) : Within c (F32.fmul x y) :=
  hx.fmul hy hc le_rfl

end F32

open F32

/-! ## The legal builds (R5, R101) -/

theorem legalB_iff {b : Word} : legalB b = true ↔ b.toNat = 1 ∨ b.toNat = 2 ∨ b.toNat = 4 := by
  simp [legalB, ← BitVec.toNat_inj, or_assoc]

theorem legalS_iff {p : Word} : legalS p = true ↔ exponentField p ≠ 255 ∧ 0 < ofBits p := by
  rw [ofBits_pos, Ne, Ne, magnitude_eq_zero]
  simp only [legalS, Bool.and_eq_true, Bool.not_eq_true', decide_eq_true_eq]
  constructor
  · rintro ⟨⟨hs, hE⟩, h0⟩
    refine ⟨hE, hs, ?_⟩
    rintro (rfl | rfl)
    · exact h0 rfl
    · exact absurd hs (by decide)
  · rintro ⟨hE, hs, hne⟩
    exact ⟨⟨hs, hE⟩, fun h0 => hne (.inl h0)⟩

/-! ## The entries of the tables, and the products on the way to them (R103 to R108) -/

theorem within_cosine (k : Nat) : Within (2 ^ 149) (cosine k) := by
  refine ⟨representable_ofBits _, ?_⟩
  obtain hk | hk := lt_or_ge k 8
  · interval_cases k <;> decide
  · rw [cosine, List.getD_eq_default _ _ hk]
    decide

theorem within_cosEntry (i j : Nat) : Within (2 ^ 149) (cosEntry i j) := by
  rw [cosEntry]
  split_ifs
  · exact within_cosine _
  · exact (within_cosine _).neg
  · exact (within_cosine _).neg
  · exact within_cosine _

theorem within_quarter : Within (2 ^ 147) quarter := ⟨representable_two_pow 147, by decide⟩

theorem within_a0 : Within (2 ^ 149) a0 := ⟨representable_ofBits _, by decide⟩

theorem within_alpha (u : Nat) : Within (2 ^ 149) (alpha u) := by
  rw [alpha]
  split_ifs
  · exact within_a0
  · exact ⟨representable_two_pow 149, by decide⟩

theorem within_quarter_alpha (u : Nat) : Within (2 ^ 147) (fmul quarter (alpha u)) :=
  within_quarter.fmul_one (within_alpha u) (representable_two_pow 147)

theorem within_quarter_alpha_alpha (u v : Nat) : Within (2 ^ 147) (fmul (fmul quarter (alpha u)) (alpha v)) :=
  (within_quarter_alpha u).fmul_one (within_alpha v) (representable_two_pow 147)

/-- The product of `64` with the two `a0` and the quarter (R105). -/
theorem within_dcStep : Within (2 ^ 153) (fmul (fmul (fmul quarter a0) a0) (64 * one)) :=
  (within_quarter_alpha_alpha 0 0).fmul (b := 2 ^ 155) ⟨representable_two_pow 155, by decide⟩
    (representable_two_pow 153) (by decide)

theorem within_dcValue : Within (2 ^ 160) dcValue :=
  within_dcStep.fmul (b := 2 ^ 156) ⟨representable_two_pow 156, by decide⟩ (representable_two_pow 160) (by decide)

/-- The scale of the DC image, before its two cosines (R106). -/
theorem within_dcScale : Within (2 ^ 158) (fmul (fmul (fmul quarter a0) a0) dcValue) :=
  (within_quarter_alpha_alpha 0 0).fmul within_dcValue (representable_two_pow 158) (by decide)

theorem within_dcRow (x : Nat) :
    Within (2 ^ 158) (fmul (fmul (fmul (fmul quarter a0) a0) dcValue) (cosEntry x 0)) :=
  within_dcScale.fmul_one (within_cosEntry x 0) (representable_two_pow 158)

theorem within_dcEntry (x y : Nat) : Within (2 ^ 158) (dcEntry x y) :=
  (within_dcRow x).fmul_one (within_cosEntry y 0) (representable_two_pow 158)

theorem within_projEntry (b x y : Nat) : Within (2 ^ 149) (projEntry b x y) :=
  (within_cosEntry x _).fmul_one (within_cosEntry y _) (representable_two_pow 149)

/-- A quarter of the greatest finite `S`; it bounds every gain and every entry of the embedding basis. -/
def gainBound : Nat := (2 ^ 24 - 1) * 2 ^ 251

theorem gainBound_lt : gainBound < 2 ^ 275 :=
  calc gainBound < 2 ^ 24 * 2 ^ 251 := by decide
    _ = 2 ^ 275 := (pow_add 2 24 251).symm

theorem representable_gainBound : Representable (gainBound : Int) := ⟨2 ^ 24 - 1, 251, by decide, rfl⟩

/-- The quarter that starts the gain brings the greatest `S` below `2^126` (R12). -/
theorem within_embedGain {p : Word} (h : exponentField p ≠ 255) (b : Nat) :
    Within gainBound (embedGain (ofBits p) b) :=
  (within_quarter_alpha_alpha _ _).fmul ⟨representable_ofBits p, natAbs_ofBits_le h⟩ representable_gainBound
    (by norm_num [gainBound])

theorem within_embedRow {p : Word} (h : exponentField p ≠ 255) (b x : Nat) :
    Within gainBound (fmul (embedGain (ofBits p) b) (cosEntry x (embedPosition b).1)) :=
  (within_embedGain h b).fmul_one (within_cosEntry x _) representable_gainBound

theorem within_embedEntry {p : Word} (h : exponentField p ≠ 255) (b x y : Nat) :
    Within gainBound (embedEntry (ofBits p) b x y) :=
  (within_embedRow h b x).fmul_one (within_cosEntry y _) representable_gainBound

/-! ## The obligations -/

/-- Settles O12: the bit tests of `legalB` and `legalS` are those of the rule on the values. -/
theorem legalBuildsAreThoseOfTheRule : Obligations.LegalBuildsAreThoseOfTheRule := by
  intro b
  rw [Build.legal, Bool.and_eq_true, legalB_iff, legalS_iff]

/-- Settles O13: between neighbours of the scale of `q` there is no binary32 value, so the nearer one is nearest. -/
theorem roundingIsToNearestTiesToEven : Obligations.RoundingIsToNearestTiesToEven := nearestEven_rn

/-- Settles O14, by the form `m · 2^e` that R9 gives a magnitude, which is unique. -/
theorem patternAndValueAreInverse : Obligations.PatternAndValueAreInverse :=
  ⟨fun _ _ hp => toBits_ofBits hp, fun _ hx hlt => ofBits_toBits hx hlt⟩

/-- Settles O15: every factor but `S` and the two integers of the DC value is at most 1, and the quarter that starts
a gain outweighs the greatest `S`. -/
theorem noTableEntryOverflows : Obligations.NoTableEntryOverflows := by
  refine ⟨fun i j => (within_cosEntry i j).belowBound_two_pow (by decide),
    (within_quarter_alpha 0).belowBound_two_pow (by decide),
    (within_quarter_alpha_alpha 0 0).belowBound_two_pow (by decide),
    within_dcStep.belowBound_two_pow (by decide), within_dcValue.belowBound_two_pow (by decide),
    within_dcScale.belowBound_two_pow (by decide), fun x => (within_dcRow x).belowBound_two_pow (by decide),
    fun x y => (within_dcEntry x y).belowBound_two_pow (by decide),
    fun b x y => (within_projEntry b x y).belowBound_two_pow (by decide), fun p hp b x y => ?_⟩
  obtain ⟨hfinite, -⟩ := legalS_iff.1 hp
  exact ⟨(within_quarter_alpha _).belowBound_two_pow (by decide),
    (within_quarter_alpha_alpha _ _).belowBound_two_pow (by decide),
    (within_embedGain hfinite b).belowBound gainBound_lt,
    (within_embedRow hfinite b x).belowBound gainBound_lt,
    (within_embedEntry hfinite b x y).belowBound gainBound_lt⟩

end Sys2Proof.Machine
end

section
/-! The register space as the host sees it (R23 to R35): the register map, what a register access does, words and bytes,
the table window, the reset values. -/

namespace Sys2Proof.Machine

/-! ## The register map (R23) -/

/-- Only an offset that is no multiple of 4 names nothing (R35). -/
theorem Reg.ofOffset_eq_none {offset : RegOffset} : Reg.ofOffset offset = none ↔ offset.toNat % 4 ≠ 0 := by
  simp only [Reg.ofOffset]
  split_ifs <;> simp_all

/-- A multiple of 4 names the register of its word index. -/
theorem Reg.ofOffset_ofNat {n : Nat} (hn : n < 0x2000) (h4 : n % 4 = 0) :
    Reg.ofOffset (BitVec.ofNat 13 n) =
      if n / 4 < 0x10 then some (lowReg (n / 4))
      else if n / 4 < 0x18 then some (.digest (Fin.ofNat 8 (n / 4 - 0x10)))
      else if n / 4 < 0x40 then some (.reserved (n / 4))
      else if n / 4 < 0x50 then some (.blk (Fin.ofNat 16 (n / 4 - 0x40)))
      else if n / 4 < 0x400 then some (.reserved (n / 4))
      else some (.window (Fin.ofNat 1024 (n / 4 - 0x400))) := by
  have htoNat : (BitVec.ofNat 13 n).toNat = n := by simpa using hn
  rw [Reg.ofOffset, htoNat]
  exact if_neg (not_not.2 h4)

theorem Reg.ofOffset_digest (j : Fin 8) : Reg.ofOffset (BitVec.ofNat 13 (0x040 + 4 * j.val)) = some (.digest j) := by
  have hj : (0x040 + 4 * j.val) / 4 = 0x10 + j.val := by omega
  rw [Reg.ofOffset_ofNat (by omega) (by omega), hj, if_neg (by omega), if_pos (by omega), Nat.add_sub_cancel_left,
    Fin.ofNat_val_eq_self]

theorem Reg.ofOffset_blk (w : Fin 16) : Reg.ofOffset (BitVec.ofNat 13 (0x100 + 4 * w.val)) = some (.blk w) := by
  have hw : (0x100 + 4 * w.val) / 4 = 0x40 + w.val := by omega
  rw [Reg.ofOffset_ofNat (by omega) (by omega), hw, if_neg (by omega), if_neg (by omega), if_neg (by omega),
    if_pos (by omega), Nat.add_sub_cancel_left, Fin.ofNat_val_eq_self]

theorem Reg.ofOffset_window (w : Fin 1024) :
    Reg.ofOffset (BitVec.ofNat 13 (0x1000 + 4 * w.val)) = some (.window w) := by
  have hw : (0x1000 + 4 * w.val) / 4 = 0x400 + w.val := by omega
  rw [Reg.ofOffset_ofNat (by omega) (by omega), hw, if_neg (by omega), if_neg (by omega), if_neg (by omega),
    if_neg (by omega), if_neg (by omega), Nat.add_sub_cancel_left, Fin.ofNat_val_eq_self]

/-- The first reserved range, between `DIGEST` and `BLK`. -/
theorem Reg.ofOffset_reserved_low {w : Nat} (hlo : 0x060 / 4 ≤ w) (hhi : w < 0x100 / 4) :
    Reg.ofOffset (BitVec.ofNat 13 (4 * w)) = some (.reserved w) := by
  rw [Reg.ofOffset_ofNat (by omega) (by omega), Nat.mul_div_cancel_left w (by decide), if_neg (by omega),
    if_neg (by omega), if_pos (by omega)]

/-- The second reserved range, between `BLK` and the table window. -/
theorem Reg.ofOffset_reserved_high {w : Nat} (hlo : 0x140 / 4 ≤ w) (hhi : w < 0x1000 / 4) :
    Reg.ofOffset (BitVec.ofNat 13 (4 * w)) = some (.reserved w) := by
  rw [Reg.ofOffset_ofNat (by omega) (by omega), Nat.mul_div_cancel_left w (by decide), if_neg (by omega),
    if_neg (by omega), if_neg (by omega), if_neg (by omega), if_pos (by omega)]

/-! ## Register accesses of the host (R25, R35) -/

theorem exists_reg_of_aligned {offset : RegOffset} (h4 : offset.toNat % 4 = 0) : ∃ r, Reg.ofOffset offset = some r :=
  Option.ne_none_iff_exists'.1 fun hnone => Reg.ofOffset_eq_none.1 hnone h4

/-- An access that is not one of those R35 leaves undefined is 32 bits wide and at a register. -/
theorem access_defined {width : AccessWidth} {offset : RegOffset} (h : ¬(width ≠ .word ∨ offset.toNat % 4 ≠ 0)) :
    width = .word ∧ ∃ r, Reg.ofOffset offset = some r := by
  obtain ⟨hwidth, h4⟩ := not_or.1 h
  exact ⟨not_not.1 hwidth, exists_reg_of_aligned (not_not.1 h4)⟩

section
variable {s : State} {width : AccessWidth} {offset : RegOffset} {v : Word}

theorem hostWrite_undefined (h : width ≠ .word ∨ offset.toNat % 4 ≠ 0) :
    hostWrite width offset v s = .refused (.registerAccessUndefined width offset) := by
  cases width with
  | word => simp [hostWrite, Reg.ofOffset_eq_none.2 (h.resolve_left (not_not.2 rfl))]
  | _ => rfl

theorem hostRead_undefined (h : width ≠ .word ∨ offset.toNat % 4 ≠ 0) :
    hostRead width offset s = .refused (.registerAccessUndefined width offset) := by
  cases width with
  | word => simp [hostRead, Reg.ofOffset_eq_none.2 (h.resolve_left (not_not.2 rfl))]
  | _ => rfl

theorem hostWrite_cmd (h : Reg.ofOffset offset = some .cmd) : hostWrite .word offset v s = issueCommand v s := by
  simp [hostWrite, h]

theorem hostWrite_reg {r : Reg} (h : Reg.ofOffset offset = some r) (hr : r ≠ .cmd) :
    hostWrite .word offset v s = .next (s.writeReg r v) := by
  cases r with
  | cmd => exact absurd rfl hr
  | _ => simp [hostWrite, h]

theorem hostRead_reg {r : Reg} (h : Reg.ofOffset offset = some r) :
    hostRead .word offset s = .next (s.reply (s.readReg r)) := by
  simp [hostRead, h]

end

@[simp] theorem State.setHost_readReg (s : State) (l : List HostAction) (r : Reg) :
    (s.setHost l).readReg r = s.readReg r := by
  cases r <;> rfl

section
variable {s : State} {width : AccessWidth} {offset : RegOffset} {v : Word} {rest : List HostAction}

theorem step_write (h : s.host = .write width offset v :: rest) :
    step s = hostWrite width offset v (s.setHost rest) := step_cons h

theorem step_read (h : s.host = .read width offset :: rest) : step s = hostRead width offset (s.setHost rest) :=
  step_cons h

/-- A write at the offset of a register other than `CMD` does what the register does with it (R35). -/
theorem step_writeReg {r : Reg} (h : s.host = .write .word offset v :: rest) (hr : Reg.ofOffset offset = some r)
    (hcmd : r ≠ .cmd) : step s = .next ((s.setHost rest).writeReg r v) := by
  rw [step_write h, hostWrite_reg hr hcmd]

/-- A read at the offset of a register answers what the register reads as and does nothing else (R35). -/
theorem step_readReg {r : Reg} (h : s.host = .read .word offset :: rest) (hr : Reg.ofOffset offset = some r) :
    step s = .next { s with host := rest, replies := s.readReg r :: s.replies } := by
  rw [step_read h, hostRead_reg hr, State.setHost_readReg]
  rfl

end

/-- A write to an operand register reaches that register only (R27 to R29). -/
theorem OperandRegs.get_set (o : OperandRegs) (r r' : OperandReg) (v : Word) :
    (o.set r v).get r' = if r' = r then v else o.get r' := by
  cases r <;> cases r' <;> rfl

/-! ## The fields of `STATUS` (R24) -/

section
variable (st : Status) (tblValid : Bool)

theorem Status.getLsbD_word_low {i : Nat} (hi : i < 8) :
    (st.word tblValid).getLsbD i = [tblValid, st.cfgFault, st.errSticky].getD i false := by
  refine BitVec.getLsbD_append.trans ?_
  simp only [BitVec.getLsbD_append, BitVec.getLsbD_zero, BitVec.getLsbD_ofBool]
  interval_cases i <;> rfl

theorem Status.getLsbD_word_high (j : Nat) : (st.word tblValid).getLsbD (8 + j) = st.err.code.getLsbD j := by
  have hj : 8 + j - 1 - 1 - 1 - 5 = j := by omega
  refine BitVec.getLsbD_append.trans ?_
  simp only [BitVec.getLsbD_append, BitVec.getLsbD_zero]
  rw [if_neg (by omega), if_neg (by omega), if_neg (by omega), if_neg (by omega), hj]
  split_ifs with h8
  · rfl
  · exact (BitVec.getLsbD_of_ge _ _ (not_lt.1 h8)).symm

/-- Bits 15:8 hold the completion code. -/
theorem Status.extractLsb'_word : (st.word tblValid).extractLsb' 8 8 = st.err.code := by
  refine BitVec.eq_of_getLsbD_eq fun j hj => ?_
  rw [BitVec.getLsbD_extractLsb', st.getLsbD_word_high, decide_eq_true hj, Bool.true_and]

end

/-! ## Words and bytes (R31, R32) -/

section
open BitVec

/-- Byte `n` of a word put together from four bytes. -/
theorem extractLsb'_fourBytes (b0 b1 b2 b3 : Byte) {n : Nat} (hn : n < 4) :
    (b3 ++ b2 ++ b1 ++ b0 : BitVec 32).extractLsb' (8 * n) 8 = [b0, b1, b2, b3].getD n 0 := by
  interval_cases n
  · exact extractLsb'_append_eq_right
  · exact (extractLsb'_append_eq_of_le (by decide)).trans extractLsb'_append_eq_right
  · exact (extractLsb'_append_eq_of_le (by decide)).trans
      ((extractLsb'_append_eq_of_le (by decide)).trans extractLsb'_append_eq_right)
  · exact (extractLsb'_append_eq_of_le (by decide)).trans
      ((extractLsb'_append_eq_of_le (by decide)).trans extractLsb'_append_eq_left)

end

theorem extractLsb'_packWord (block : List Byte) (w : Nat) {n : Nat} (hn : n < 4) :
    (packWord block w).extractLsb' (8 * n) 8 = block.getD (4 * w + n) 0 := by
  rw [packWord, extractLsb'_fourBytes _ _ _ _ hn]
  interval_cases n <;> rfl

/-- Replacing word `w` of `BLK` replaces its four bytes and no other. -/
theorem getElem_blkSetWord (blk : Vector Byte 64) (w : Fin 16) (v : Word) {k : Nat} (hk : k < 64) :
    (blkSetWord blk w v)[k] = if k / 4 = w.val then v.extractLsb' (8 * (k % 4)) 8 else blk[k] := by
  simp only [blkSetWord, Vector.getElem_set]
  by_cases hkw : k / 4 = w.val
  · obtain ⟨n, hn, rfl⟩ : ∃ n < 4, k = 4 * w.val + n := ⟨k % 4, by omega, by omega⟩
    have hmod : (4 * w.val + n) % 4 = n := by omega
    rw [if_pos hkw, hmod]
    interval_cases n <;> simp
  · rw [if_neg hkw, if_neg (by omega), if_neg (by omega), if_neg (by omega), if_neg (by omega)]

/-! ## The tables and their window (R33, R34) -/

theorem getD_flatten64 {α : Type} (f : Nat → Nat → α) {x y : Nat} (hx : x < 8) (hy : y < 8) (d : α) :
    (flatten64 f).getD (8 * x + y) d = f x y := by
  have hlt : 8 * x + y < 64 := by omega
  have hdiv : (8 * x + y) / 8 = x := by omega
  have hmod : (8 * x + y) % 8 = y := by omega
  simp [flatten64, List.getD, hlt, hdiv, hmod]

/-- A row of a table built row by row, and no row beyond the last. -/
theorem getD_map_range {α : Type} (f : Nat → List α) (n i : Nat) :
    ((List.range n).map f).getD i [] = if i < n then f i else [] := by
  by_cases hi : i < n <;> simp [List.getD, hi]

section
variable (T : Tables) {w b k : Nat}

theorem Tables.windowWord_cos (hk : k < 64) : T.windowWord k = F32.toBits (T.cos.getD k 0) := if_pos hk

theorem Tables.windowWord_dcimg (hw : w = 0x40 + k) (hk : k < 64) :
    T.windowWord w = F32.toBits (T.dcimg.getD k 0) := by
  subst hw
  rw [windowWord, if_neg (by omega), if_pos (by omega), Nat.add_sub_cancel_left]

theorem Tables.windowWord_unused (hlo : 0x80 ≤ w) (hhi : w < 0x100) : T.windowWord w = 0 := by
  rw [windowWord, if_neg (by omega), if_neg (by omega), if_pos hhi]

theorem Tables.windowWord_emb (hw : w = 0x100 + 64 * b + k) (hb : b < 4) (hk : k < 64) :
    T.windowWord w = F32.toBits ((T.emb.getD b []).getD k 0) := by
  have hrow : (w - 0x100) / 64 = b := by omega
  have hcol : w % 64 = k := by omega
  rw [windowWord, if_neg (by omega), if_neg (by omega), if_neg (by omega), if_pos (by omega), hrow, hcol]

theorem Tables.windowWord_proj (hw : w = 0x200 + 64 * b + k) (hb : b < 4) (hk : k < 64) :
    T.windowWord w = F32.toBits ((T.proj.getD b []).getD k 0) := by
  have hrow : (w - 0x200) / 64 = b := by omega
  have hcol : w % 64 = k := by omega
  rw [windowWord, if_neg (by omega), if_neg (by omega), if_neg (by omega), if_neg (by omega), if_pos (by omega), hrow,
    hcol]

theorem Tables.windowWord_pat (hw : w = 0x300 + 16 * b + k) (hk : k < 16) :
    T.windowWord w = packWord (T.pat.getD b []) k := by
  have hrow : (w - 0x300) / 16 = b := by omega
  have hcol : w % 16 = k := by omega
  rw [windowWord, if_neg (by omega), if_neg (by omega), if_neg (by omega), if_neg (by omega), if_neg (by omega), hrow,
    hcol]

end

section
variable (B : Nat) (S : F32)

theorem Tables.construct_emb (b : Nat) :
    (Tables.construct B S).emb.getD b [] = if b < B then flatten64 (embedEntry S b) else [] := getD_map_range _ B b

theorem Tables.construct_proj (b : Nat) :
    (Tables.construct B S).proj.getD b [] = if b < B then flatten64 (projEntry b) else [] := getD_map_range _ B b

/-- There are `2^B` patterns (R110). -/
theorem Tables.construct_pat_of_le {p : Nat} (hp : 2 ^ B ≤ p) : (Tables.construct B S).pat.getD p [] = [] :=
  (getD_map_range _ (2 ^ B) p).trans (if_neg (by omega))

end

theorem F32.toBits_zero : F32.toBits 0 = 0 := by decide

/-- An entry of a table of `B` rows, or 0 beyond them. -/
theorem toBits_getD_row (f : Nat → Nat → F32) (b B : Nat) {x y : Nat} (hx : x < 8) (hy : y < 8) :
    F32.toBits ((if b < B then flatten64 f else []).getD (8 * x + y) 0) =
      if b < B then F32.toBits (f x y) else 0 := by
  split_ifs
  · rw [getD_flatten64 f hx hy]
  · exact F32.toBits_zero

theorem State.readReg_window_none {s : State} (h : s.tables = none) (w : Fin 1024) : s.readReg (.window w) = 0 := by
  simp [State.readReg, h]

theorem State.readReg_window_some {s : State} {T : Tables} (h : s.tables = some T) (w : Fin 1024) :
    s.readReg (.window w) = T.windowWord w.val := by
  simp [State.readReg, h]

/-! ## The obligations -/

/-- Settles O6: a 32-bit access at offset 0 is one to `CMD`. -/
theorem writeToCmdRunsTheCommand : Obligations.WriteToCmdRunsTheCommand := by
  intro s rest
  have hcmd : Reg.ofOffset 0x000#13 = some .cmd := rfl
  refine ⟨fun c i h hdec => ?_, fun h => step_readReg h hcmd⟩
  rw [step_write h, hostWrite_cmd hcmd]
  simp only [issueCommand, hdec]
  rfl

/-- Settles O31: shifting byte `n mod 4` down to the low end is extracting it. -/
theorem digestBytesAreBigEndianWords : Obligations.DigestBytesAreBigEndianWords := fun _ => rfl

/-- Settles O45, by the fields that `Status.word` puts side by side. -/
theorem statusWordHasItsFields : Obligations.StatusWordHasItsFields := by
  intro s
  have hlow := fun {i : Nat} (hi : i < 8) => s.status.getLsbD_word_low s.tblValid hi
  refine ⟨hlow (by decide), hlow (by decide), hlow (by decide), fun i hlo hhi => ?_, ?_, fun i hi => ?_⟩
  · rw [State.statusWord, hlow hhi, List.getD_eq_default _ _ hlo]
  · rw [State.statusWord, Status.extractLsb'_word]
    cases s.status.err <;> rfl
  · obtain ⟨j, rfl⟩ := Nat.exists_eq_add_of_le hi
    rw [State.statusWord, Nat.add_assoc 8 8 j, Status.getLsbD_word_high, BitVec.getLsbD_of_ge _ _ (by omega)]

/-- Settles O49, field by field of the reset state. -/
theorem resetLeavesZeros : Obligations.ResetLeavesZeros := by
  intro b
  refine ⟨show Status.reset.word false = 0 by decide, fun r => ?_, rfl, fun j => ?_, fun k => ?_, rfl,
    State.readReg_window_none rfl, rfl, rfl⟩
  · cases r <;> rfl
  · exact Vector.getElem_replicate _
  · exact Vector.getElem_replicate _

/-- Settles O53: an access is defined exactly where the register map has a register. -/
theorem onlyAlignedWordAccessesAreDefined : Obligations.OnlyAlignedWordAccessesAreDefined := by
  intro s width offset v rest
  refine ⟨fun h hundef => ?_, fun h hundef => ?_, exists_reg_of_aligned, fun r h hr => step_readReg h hr, rfl, rfl, rfl,
    rfl, rfl, fun _ => rfl, rfl, fun _ => rfl, fun _ => rfl⟩
  · rw [step_write h, hostWrite_undefined hundef]
  · rw [step_read h, hostRead_undefined hundef]

/-- Settles O54, range by range of the register space. -/
theorem registerMapIsTheTable : Obligations.RegisterMapIsTheTable :=
  ⟨rfl, rfl, rfl, Reg.ofOffset_digest, fun _ => Reg.ofOffset_reserved_low, Reg.ofOffset_blk,
    fun _ => Reg.ofOffset_reserved_high, Reg.ofOffset_window⟩

/-- Settles O55, by the kind of register at the offset. -/
theorem registerWritesReachOnlyTheirRegister : Obligations.RegisterWritesReachOnlyTheirRegister := by
  intro s offset r v rest h hr
  refine ⟨?_, fun hoperand hblk hcmd => ?_⟩
  · rintro o rfl
    refine ⟨_, step_writeReg h hr (by simp), rfl, ?_, fun o' ho' => ?_⟩
    · exact (OperandRegs.get_set _ o o v).trans (if_pos rfl)
    · exact (OperandRegs.get_set _ o o' v).trans (if_neg ho')
  · rw [step_writeReg h hr hcmd]
    cases r with
    | operand o => exact absurd rfl (hoperand o)
    | blk w => exact absurd rfl (hblk w)
    | _ => rfl

/-- Settles O56: a write replaces the four bytes of its word, and packing is undone byte by byte. -/
theorem blkWordsPackLittleEndian : Obligations.BlkWordsPackLittleEndian := by
  intro s w v rest
  refine ⟨fun h => ?_, fun h => ?_⟩
  · exact ⟨_, step_writeReg h (Reg.ofOffset_blk w) (by simp), fun k => getElem_blkSetWord s.blk w v k.isLt⟩
  · refine ⟨_, step_readReg h (Reg.ofOffset_blk w), fun n hn => ?_⟩
    have hk : 4 * w.val + n < 64 := by omega
    exact (extractLsb'_packWord _ _ hn).trans (by simp [List.getD, hk])

/-- Settles O57: the window is cut into its regions, and each entry is looked up in the table constructed. -/
theorem tableWindowShowsTheTables : Obligations.TableWindowShowsTheTables := by
  refine fun s => ⟨State.readReg_window_none, fun htab _ => ?_⟩
  simp only [State.readReg_window_some htab]
  refine ⟨fun i j => ?_, fun x y => ?_, fun w => ?_, fun b x y => ?_, fun b x y => ?_, fun p w n hn => ?_⟩
  · rw [Tables.windowWord_cos _ (by omega)]
    exact congrArg F32.toBits (getD_flatten64 cosEntry i.isLt j.isLt 0)
  · rw [Tables.windowWord_dcimg _ (Nat.add_assoc ..) (by omega)]
    exact congrArg F32.toBits (getD_flatten64 dcEntry x.isLt y.isLt 0)
  · exact Tables.windowWord_unused _ (Nat.le_add_right ..) (by omega)
  · rw [Tables.windowWord_emb _ (Nat.add_assoc ..) b.isLt (by omega), Build.tables, Tables.construct_emb]
    exact toBits_getD_row _ _ _ x.isLt y.isLt
  · rw [Tables.windowWord_proj _ (Nat.add_assoc ..) b.isLt (by omega), Build.tables, Tables.construct_proj]
    exact toBits_getD_row _ _ _ x.isLt y.isLt
  · rw [Tables.windowWord_pat _ rfl w.isLt, extractLsb'_packWord _ _ hn]
    split_ifs with hp
    · rfl
    · rw [Build.tables, Tables.construct_pat_of_le s.build.bits _ (not_lt.1 hp)]
      rfl

end Sys2Proof.Machine
end

section
/-! What the eleven commands do: every command ends in a next state, in one of the ways `CommandEnds` lists. -/

namespace Sys2Proof.Machine

/-! ## The tables a command can use (R101) -/

theorem usableTables_of_tables {s : State} {T : Tables} (h : s.tables = some T) : s.usableTables = some T := by
  simp [State.usableTables, h]

/-- Tables to be had are there already, or they are those of a legal build without a `CFG_FAULT`. -/
theorem usableTables_some {s : State} {T : Tables} (h : s.usableTables = some T) :
    s.tables = some T ∨
      s.tables = none ∧ s.status.cfgFault = false ∧ s.build.legal = true ∧ T = s.build.tables := by
  rw [State.usableTables] at h
  split at h
  · next ht => exact .inl (ht.trans h)
  · next ht =>
    split at h
    · next hb =>
      cases h
      exact .inr ⟨ht, hb.1, hb.2, rfl⟩
    · cases h

/-- Tables are not to be had only if they are not there and the build is illegal or already found to be. -/
theorem usableTables_none {s : State} (h : s.usableTables = none) :
    s.tables = none ∧ (s.status.cfgFault = true ∨ s.build.legal = false) := by
  rw [State.usableTables] at h
  split at h
  · cases h
  · next ht =>
    split at h
    · cases h
    · next hb =>
      rw [not_and_or] at hb
      exact ⟨ht, by simpa using hb⟩

@[simp] theorem State.setTables_geometry (s : State) (v : Option Tables) :
    (s.setTables v).geometry = s.geometry := rfl

/-! ## The pixels of a frame lie in its span (R55, R61, R62) -/

theorem State.geometry_span (s : State) :
    s.geometry.span =
      if s.geometry.width = 0 ∨ s.geometry.height = 0 then 0
      else (s.geometry.height - 1) * s.geometry.stride + s.geometry.width := rfl

theorem State.geometry_totalBlocks (s : State) :
    s.geometry.totalBlocks = s.geometry.height / 8 * s.geometry.blocksPerRow := Nat.mul_comm _ _

/-- A sub-block of a byte of the payload is a block of the frame (R6, R150). -/
theorem State.block_lt_totalBlocks {s : State} {i sub : Nat} (hi : i < s.geometry.bytesPerFrame)
    (hsub : sub < s.geometry.blocksPerByte) : i * s.geometry.blocksPerByte + sub < s.geometry.totalBlocks :=
  calc i * s.geometry.blocksPerByte + sub < (i + 1) * s.geometry.blocksPerByte := by rw [Nat.succ_mul]; omega
    _ ≤ s.geometry.bytesPerFrame * s.geometry.blocksPerByte := Nat.mul_le_mul_right _ hi
    _ ≤ s.geometry.totalBlocks := Nat.div_mul_le_self _ _

/-- A pixel inside the frame lies in the span. -/
theorem State.pixelAddr_lt_span {s : State} {px py : Nat} (hpx : px < s.geometry.width)
    (hpy : py < s.geometry.height) :
    pixelAddr s.fvPtr s.geometry.stride px py < s.fvPtr + s.geometry.span := by
  have hrow : py * s.geometry.stride ≤ (s.geometry.height - 1) * s.geometry.stride :=
    Nat.mul_le_mul_right _ (by omega)
  rw [s.geometry_span, if_neg (by omega), pixelAddr]
  omega

/-- Every pixel of a block of the frame lies in the span. -/
theorem State.tileAddr_mem_span {s : State} {k x y : Nat} (hk : k < s.geometry.totalBlocks) (hx : x < 8) (hy : y < 8) :
    s.fvPtr ≤ tileAddr s.fvPtr s.geometry k x y ∧
      tileAddr s.fvPtr s.geometry k x y < s.fvPtr + s.geometry.span := by
  rw [s.geometry_totalBlocks] at hk
  have hrow : k / s.geometry.blocksPerRow < s.geometry.height / 8 := Nat.div_lt_of_lt_mul (by rwa [Nat.mul_comm])
  have hcol : k % s.geometry.blocksPerRow < s.geometry.width / 8 :=
    Nat.mod_lt _ (Nat.pos_of_ne_zero fun h0 => by simp [h0] at hk)
  refine ⟨?_, State.pixelAddr_lt_span (by omega) (by omega)⟩
  rw [tileAddr, pixelAddr, Nat.add_assoc]
  exact Nat.le_add_right _ _

/-! ## The plans of `ENCF` and `DECF` (R152, R155) -/

/-- A command stores only in its destination range `[p, p + n)`, which exists (R55). -/
def StoresInside (memSize p n : Nat) (stores : List Host.Cell) : Prop :=
  ∀ c ∈ stores, c.1 < memSize ∧ p ≤ c.1 ∧ c.1 < p + n

theorem encfStores_inside {s : State} (T : Tables) (hfit : rangeFits s.memSize s.fvPtr s.geometry.span = true) :
    StoresInside s.memSize s.fvPtr s.geometry.span (encfStores s T) := by
  intro c hc
  simp only [encfStores, tileStores, List.mem_flatMap, List.mem_map, List.mem_range] at hc
  obtain ⟨i, hi, sub, hsub, x, hx, y, hy, rfl⟩ := hc
  obtain ⟨hlo, hhi⟩ := State.tileAddr_mem_span (State.block_lt_totalBlocks hi hsub) hx hy
  exact ⟨lt_of_rangeFits hfit hlo hhi, hlo, hhi⟩

theorem decfStores_inside {s : State} (T : Tables)
    (hfit : rangeFits s.memSize s.bufPtr s.geometry.bytesPerFrame = true) :
    StoresInside s.memSize s.bufPtr s.geometry.bytesPerFrame (decfStores s T) := by
  intro c hc
  simp only [decfStores, List.mem_map, List.mem_range] at hc
  obtain ⟨i, hi, rfl⟩ := hc
  have hlo := Nat.le_add_right s.bufPtr i
  have hhi := Nat.add_lt_add_left hi s.bufPtr
  exact ⟨lt_of_rangeFits hfit hlo hhi, hlo, hhi⟩

/-- What the plans of `ENCF` and `DECF` share: they differ in the length that is wrong and in their stores (R153,
R157). -/
def framePlan (wrongLen : Bool) (storesOf : State → Tables → List Host.Cell) (s : State) :
    Except State (State × List Host.Cell) :=
  match ensureTables s with
  | .error s' => .error s'
  | .ok (s', T) =>
    match frameCheck wrongLen s' with
    | some code => .error (fail code s')
    | none => .ok (s', storesOf s' T)

theorem encfPlan_eq (s : State) :
    encfPlan s = framePlan (decide (s.bufLen ≠ s.geometry.bytesPerFrame)) encfStores s := rfl

theorem decfPlan_eq (s : State) :
    decfPlan s = framePlan (decide (s.bufLen < s.geometry.bytesPerFrame)) decfStores s := rfl

section
variable {wrongLen : Bool} {storesOf : State → Tables → List Host.Cell} {s s' : State} {stores : List Host.Cell}

/-- A plan to store: the tables were to be had and all checks passed. -/
theorem framePlan_ok (h : framePlan wrongLen storesOf s = .ok (s', stores)) :
    ∃ T, s.usableTables = some T ∧ s' = s.setTables (some T) ∧ stores = storesOf s' T ∧
      frameCheck wrongLen s' = none := by
  rw [framePlan] at h
  split at h
  · cases h
  · next u T hT =>
    obtain ⟨husable, rfl⟩ := ensureTables_ok hT
    split at h
    · cases h
    · next hcheck =>
      cases h
      exact ⟨T, husable, rfl, rfl, hcheck⟩

/-- A plan that fails: the tables were not to be had, or a check failed. -/
theorem framePlan_error (h : framePlan wrongLen storesOf s = .error s') :
    s.usableTables = none ∧ s' = fail .config (s.setStatus s.status.refuseConfig) ∨
      ∃ T code, s.usableTables = some T ∧ code ≠ .ok ∧ s' = fail code (s.setTables (some T)) := by
  rw [framePlan] at h
  split at h
  · next u hT =>
    cases h
    exact .inl (ensureTables_error hT)
  · next u T hT =>
    obtain ⟨husable, rfl⟩ := ensureTables_ok hT
    split at h
    · next code hcheck =>
      cases h
      exact .inr ⟨T, code, husable, fun hok => frameCheck_ne_ok (hok ▸ hcheck), rfl⟩
    · cases h

end

theorem encfPlan_ok {s s' : State} {stores : List Host.Cell} (h : encfPlan s = .ok (s', stores)) :
    ∃ T, s.usableTables = some T ∧ s' = s.setTables (some T) ∧
      StoresInside s.memSize s.fvPtr s.geometry.span stores := by
  obtain ⟨T, hT, rfl, rfl, hcheck⟩ := framePlan_ok h
  obtain ⟨-, -, -, hfit, -⟩ := frameCheck_none.1 hcheck
  exact ⟨T, hT, rfl, encfStores_inside T hfit⟩

theorem decfPlan_ok {s s' : State} {stores : List Host.Cell} (h : decfPlan s = .ok (s', stores)) :
    ∃ T, s.usableTables = some T ∧ s' = s.setTables (some T) ∧
      StoresInside s.memSize s.bufPtr s.geometry.bytesPerFrame stores := by
  obtain ⟨T, hT, rfl, rfl, hcheck⟩ := framePlan_ok h
  obtain ⟨-, -, hfit, -, -⟩ := frameCheck_none.1 hcheck
  exact ⟨T, hT, rfl, decfStores_inside T hfit⟩

/-- The stores of a command, whether or not a reset cuts it short, are to addresses that exist (R55, R270). -/
theorem lt_memSize_of_mem_wordStores {c : Word} {s : State} {cell : Host.Cell} (h : cell ∈ wordStores c s) :
    cell.1 < s.memSize := by
  rw [wordStores] at h
  split at h
  · next i hi =>
    cases i with
    | encf =>
      rw [plannedStores] at h
      split at h
      · cases h
      · next hplan =>
        obtain ⟨T, -, -, hinside⟩ := encfPlan_ok hplan
        exact (hinside cell h).1
    | decf =>
      rw [plannedStores] at h
      split at h
      · cases h
      · next hplan =>
        obtain ⟨T, -, -, hinside⟩ := decfPlan_ok hplan
        exact (hinside cell h).1
    | _ => cases h
  · cases h

/-! ## How a command ends (R14, R243) -/

/-- The ways a command `i` issued in the state `s` ends: with a failure, or with what it writes (R21). -/
inductive CommandEnds (s : State) : Instr → State → Prop
  | noTables {i : Instr} (hi : i.usesTables = true) (hT : s.usableTables = none) :
      CommandEnds s i (fail .config (s.setStatus s.status.refuseConfig))
  | failedWithTables {i : Instr} {T : Tables} {code : ErrCode} (hi : i.usesTables = true)
      (hT : s.usableTables = some T) (hcode : code ≠ .ok) : CommandEnds s i (fail code (s.setTables (some T)))
  | failed {i : Instr} {code : ErrCode} (hi : i ∈ [.sha256, .crc32, .pktcrc]) (hcode : code ≠ .ok) :
      CommandEnds s i (fail code s)
  | pktvfyFailed {code : ErrCode} (hcode : code ≠ .ok) : CommandEnds s .pktvfy (fail code (s.setResult 0))
  | nop : CommandEnds s .nop (done s)
  | clrerr : CommandEnds s .clrerr (done (s.setStatus s.status.clearSticky))
  | tblinit {T : Tables} (hT : s.usableTables = some T) : CommandEnds s .tblinit (done (s.setTables (some T)))
  | synth {T : Tables} (pattern : Nat) (hT : s.usableTables = some T) :
      CommandEnds s (.synth pattern) (done ((s.setTables (some T)).setBlk (T.synthesise pattern)))
  | extract {T : Tables} (hT : s.usableTables = some T) :
      CommandEnds s .extract (done ((s.setTables (some T)).setResult
        (BitVec.ofNat 32 (extractPattern s.bits T.proj s.blk.toList))))
  | encf {T : Tables} {stores : List Host.Cell} (hT : s.usableTables = some T)
      (hstores : StoresInside s.memSize s.fvPtr s.geometry.span stores) :
      CommandEnds s .encf (done ((s.setTables (some T)).setMem (s.mem.storeAll stores)))
  | decf {T : Tables} {stores : List Host.Cell} (hT : s.usableTables = some T)
      (hstores : StoresInside s.memSize s.bufPtr s.geometry.bytesPerFrame stores) :
      CommandEnds s .decf (done (((s.setTables (some T)).setMem (s.mem.storeAll stores)).setResult
        (BitVec.ofNat 32 s.geometry.bytesPerFrame)))
  | sha256 : CommandEnds s .sha256 (done (s.setDigest (sha256Words s.bufBytes).toVector))
  | crc32 : CommandEnds s .crc32 (done (s.setResult (crc32c s.bufBytes s.operands.crcSeed)))
  | pktcrc : CommandEnds s .pktcrc (done (s.setResult (packetCrc s.bufBytes s.auxBytes s.crcOffset)))
  | pktvfy : CommandEnds s .pktvfy (done (s.setResult
      (if storedCrc s.bufBytes s.crcOffset = packetCrc s.bufBytes s.auxBytes s.crcOffset then 1 else 0)))

theorem framePlan_error_ends {wrongLen : Bool} {storesOf : State → Tables → List Host.Cell} {s t : State}
    {i : Instr} (hi : i.usesTables = true) (h : framePlan wrongLen storesOf s = .error t) : CommandEnds s i t := by
  obtain ⟨hT, rfl⟩ | ⟨T, code, hT, hcode, rfl⟩ := framePlan_error h
  · exact .noTables hi hT
  · exact .failedWithTables hi hT hcode

section
variable (s : State)

theorem execTblinit_ends : ∃ t, execTblinit s = .next t ∧ CommandEnds s .tblinit t := by
  cases hT : s.usableTables with
  | none => exact ⟨_, by simp [execTblinit, ensureTables_of_unusable hT], .noTables rfl hT⟩
  | some T => exact ⟨_, by simp [execTblinit, ensureTables_of_usable hT], .tblinit hT⟩

theorem execSynth_ends (pattern : Nat) : ∃ t, execSynth pattern s = .next t ∧ CommandEnds s (.synth pattern) t := by
  cases hT : s.usableTables with
  | none => exact ⟨_, by simp [execSynth, ensureTables_of_unusable hT], .noTables rfl hT⟩
  | some T =>
    by_cases hp : 2 ^ s.bits ≤ pattern
    · exact ⟨_, by simp [execSynth, ensureTables_of_usable hT, hp],
        .failedWithTables (code := .operand) rfl hT (by decide)⟩
    · exact ⟨_, by simp [execSynth, ensureTables_of_usable hT, hp], .synth pattern hT⟩

theorem execExtract_ends : ∃ t, execExtract s = .next t ∧ CommandEnds s .extract t := by
  cases hT : s.usableTables with
  | none => exact ⟨_, by simp [execExtract, ensureTables_of_unusable hT], .noTables rfl hT⟩
  | some T => exact ⟨_, by simp [execExtract, ensureTables_of_usable hT], .extract hT⟩

theorem execEncf_ends : ∃ t, execEncf s = .next t ∧ CommandEnds s .encf t := by
  cases hplan : encfPlan s with
  | error t => exact ⟨t, by simp [execEncf, hplan], framePlan_error_ends rfl hplan⟩
  | ok plan =>
    obtain ⟨T, hT, hs', hinside⟩ := encfPlan_ok (s' := plan.1) hplan
    exact ⟨_, by simp [execEncf, hplan, hs'], .encf hT hinside⟩

theorem execDecf_ends : ∃ t, execDecf s = .next t ∧ CommandEnds s .decf t := by
  cases hplan : decfPlan s with
  | error t => exact ⟨t, by simp [execDecf, hplan], framePlan_error_ends rfl hplan⟩
  | ok plan =>
    obtain ⟨T, hT, hs', hinside⟩ := decfPlan_ok (s' := plan.1) hplan
    exact ⟨_, by simp [execDecf, hplan, hs'], .decf hT hinside⟩

theorem execSha256_ends : ∃ t, execSha256 s = .next t ∧ CommandEnds s .sha256 t := by
  by_cases hfit : s.bufFits = true
  · exact ⟨_, if_pos hfit, .sha256⟩
  · exact ⟨_, if_neg hfit, .failed (by decide) (by decide)⟩

theorem execCrc32_ends : ∃ t, execCrc32 s = .next t ∧ CommandEnds s .crc32 t := by
  by_cases hfit : s.bufFits = true
  · exact ⟨_, if_pos hfit, .crc32⟩
  · exact ⟨_, if_neg hfit, .failed (by decide) (by decide)⟩

theorem execPktcrc_ends : ∃ t, execPktcrc s = .next t ∧ CommandEnds s .pktcrc t := by
  cases hcheck : packetCheck s with
  | none => exact ⟨_, by simp [execPktcrc, hcheck], .pktcrc⟩
  | some code =>
    have hcode : code ≠ .ok := fun hok => packetCheck_ne_ok (hok ▸ hcheck)
    exact ⟨_, by simp [execPktcrc, hcheck], .failed (by decide) hcode⟩

theorem execPktvfy_ends : ∃ t, execPktvfy s = .next t ∧ CommandEnds s .pktvfy t := by
  cases hcheck : packetCheck s with
  | none => exact ⟨_, by simp [execPktvfy, hcheck], .pktvfy⟩
  | some code =>
    have hcode : code ≠ .ok := fun hok => packetCheck_ne_ok (hok ▸ hcheck)
    exact ⟨_, by simp [execPktvfy, hcheck], .pktvfyFailed hcode⟩

/-- Every command, in every state, ends in a next state, in one of the ways listed (R212, R243). -/
theorem exec_ends (i : Instr) : ∃ t, exec i s = .next t ∧ CommandEnds s i t := by
  cases i with
  | nop => exact ⟨_, rfl, .nop⟩
  | clrerr => exact ⟨_, rfl, .clrerr⟩
  | tblinit => exact execTblinit_ends s
  | synth pattern => exact execSynth_ends s pattern
  | extract => exact execExtract_ends s
  | encf => exact execEncf_ends s
  | decf => exact execDecf_ends s
  | sha256 => exact execSha256_ends s
  | crc32 => exact execCrc32_ends s
  | pktcrc => exact execPktcrc_ends s
  | pktvfy => exact execPktvfy_ends s

end

theorem commandEnds_of_exec {i : Instr} {s t : State} (h : exec i s = .next t) : CommandEnds s i t := by
  obtain ⟨u, hu, hends⟩ := exec_ends s i
  rw [hu] at h
  cases h
  exact hends

/-! ## What a command can do to each part of the state -/

section
variable {i : Instr} {s t : State}

theorem CommandEnds.frame (h : CommandEnds s i t) : CommandFrame s t := by
  cases h <;> exact ⟨rfl, rfl, rfl, rfl, rfl⟩

/-- A command that uses no tables leaves them alone; one that does leaves there the tables it used (R101). -/
theorem CommandEnds.tables (h : CommandEnds s i t) :
    t.tables = s.tables ∨ i.usesTables = true ∧ t.tables = s.usableTables := by
  cases h with
  | failedWithTables hi hT => exact .inr ⟨hi, hT.symm⟩
  | tblinit hT => exact .inr ⟨rfl, hT.symm⟩
  | synth _ hT => exact .inr ⟨rfl, hT.symm⟩
  | extract hT => exact .inr ⟨rfl, hT.symm⟩
  | encf hT => exact .inr ⟨rfl, hT.symm⟩
  | decf hT => exact .inr ⟨rfl, hT.symm⟩
  | _ => exact .inl rfl

theorem CommandEnds.tables_stay (h : CommandEnds s i t) {T : Tables} (hT : s.tables = some T) :
    t.tables = some T := by
  obtain ht | ⟨-, ht⟩ := h.tables
  · exact ht.trans hT
  · exact ht.trans (usableTables_of_tables hT)

/-- Only a command that uses tables and can have none sets `CFG_FAULT`, and none clears it (R101, R211). -/
theorem CommandEnds.cfgFault (h : CommandEnds s i t) :
    t.status.cfgFault = s.status.cfgFault ∨
      i.usesTables = true ∧ s.usableTables = none ∧ t.status.cfgFault = true := by
  cases h with
  | noTables hi hT => exact .inr ⟨hi, hT, rfl⟩
  | _ => exact .inl rfl

theorem CommandEnds.cfgFault_stays (h : CommandEnds s i t) (hfault : s.status.cfgFault = true) :
    t.status.cfgFault = true := by
  obtain ht | ⟨-, -, ht⟩ := h.cfgFault
  · exact ht.trans hfault
  · exact ht

/-- A failure sets `ERR_STICKY`; a success leaves it, but for `CLRERR`, which never fails (R211, R243). -/
theorem CommandEnds.errSticky (h : CommandEnds s i t) :
    t.status.err ≠ .ok ∧ t.status.errSticky = true ∧ i ≠ .clrerr ∨
      t.status.err = .ok ∧ t.status.errSticky = if i = .clrerr then false else s.status.errSticky := by
  cases h with
  | noTables hi =>
    refine .inl ⟨by simp, rfl, ?_⟩
    rintro rfl
    cases hi
  | failedWithTables hi _ hcode =>
    refine .inl ⟨hcode, rfl, ?_⟩
    rintro rfl
    cases hi
  | failed hi hcode =>
    refine .inl ⟨hcode, rfl, ?_⟩
    rintro rfl
    simp at hi
  | pktvfyFailed hcode => exact .inl ⟨hcode, rfl, by simp⟩
  | _ => exact .inr ⟨rfl, rfl⟩

theorem CommandEnds.result (h : CommandEnds s i t) :
    t.result = s.result ∨ i ∈ [.extract, .decf, .crc32, .pktcrc, .pktvfy] := by
  cases h with
  | extract | decf | crc32 | pktcrc | pktvfy | pktvfyFailed => exact .inr (by decide)
  | _ => exact .inl rfl

theorem CommandEnds.digest (h : CommandEnds s i t) : t.digest = s.digest ∨ i = .sha256 := by
  cases h with
  | sha256 => exact .inr rfl
  | _ => exact .inl rfl

theorem CommandEnds.blk (h : CommandEnds s i t) : t.blk = s.blk ∨ ∃ p, i = .synth p := by
  cases h with
  | synth p => exact .inr ⟨p, rfl⟩
  | _ => exact .inl rfl

/-- Only `ENCF` and `DECF` write `MEM`, and only at addresses that exist (R21, R55). -/
theorem CommandEnds.mem (h : CommandEnds s i t) :
    t.mem = s.mem ∨ (i = .encf ∨ i = .decf) ∧
      ∃ stores : List Host.Cell, (∀ c ∈ stores, c.1 < s.memSize) ∧ t.mem = s.mem.storeAll stores := by
  cases h with
  | encf _ hinside => exact .inr ⟨.inl rfl, _, fun c hc => (hinside c hc).1, rfl⟩
  | decf _ hinside => exact .inr ⟨.inr rfl, _, fun c hc => (hinside c hc).1, rfl⟩
  | _ => exact .inl rfl

end

/-! ## The obligations -/

/-- Settles O42: the ways a command ends, part by part of the state. -/
theorem commandsWriteOnlyWhatTheTableSays : Obligations.CommandsWriteOnlyWhatTheTableSays := by
  intro i s t h
  have hends := commandEnds_of_exec h
  refine ⟨hends.frame, hends.result.resolve_right, hends.digest.resolve_right, fun hsynth => ?_,
    fun hencf hdecf => ?_, fun hi => ⟨?_, ?_⟩, fun T => hends.tables_stay, hends.cfgFault_stays⟩
  · exact hends.blk.resolve_right fun ⟨p, hp⟩ => hsynth p hp
  · exact hends.mem.resolve_right fun ⟨hi, _⟩ => hi.elim hencf hdecf
  · exact hends.tables.resolve_right fun ⟨huses, _⟩ => by simp [hi] at huses
  · exact hends.cfgFault.resolve_right fun ⟨huses, _⟩ => by simp [hi] at huses

/-- Settles O44: only `fail` leaves a code other than `OK`, and it sets the flag; `done` leaves the flag alone. -/
theorem stickyFlagRemembersFailures : Obligations.StickyFlagRemembersFailures := by
  intro i s t h
  obtain ⟨herr, hsticky, hi⟩ | ⟨herr, hsticky⟩ := (commandEnds_of_exec h).errSticky
  · exact ⟨fun _ => hsticky, fun hok => absurd hok herr, fun hclr => absurd hclr hi⟩
  · exact ⟨fun hne => absurd herr hne, fun _ hi => hsticky.trans (if_neg hi),
      fun hi => hsticky.trans (if_pos hi)⟩

end Sys2Proof.Machine
end

section
/-! What the moves of the host do, and what every step keeps: the invariant of `State.Inv`, the build, the tables and
`CFG_FAULT`. -/

namespace Sys2Proof.Machine

/-! ## What a move of the host can do (R280) -/

section
variable (s : State) (r : Reg) (v : Word)

@[simp] theorem State.writeReg_build : (s.writeReg r v).build = s.build := by cases r <;> rfl
@[simp] theorem State.writeReg_status : (s.writeReg r v).status = s.status := by cases r <;> rfl
@[simp] theorem State.writeReg_tables : (s.writeReg r v).tables = s.tables := by cases r <;> rfl
@[simp] theorem State.writeReg_mem : (s.writeReg r v).mem = s.mem := by cases r <;> rfl

end

/-- The ways a move of the host ends that does not stop the machine. -/
inductive MoveEnds (s : State) : HostAction → State → Prop
  | command {offset : RegOffset} {c : Word} {i : Instr} {t : State} (hr : Reg.ofOffset offset = some .cmd)
      (hdec : decode c = .ok i) (h : CommandEnds s i t) : MoveEnds s (.write .word offset c) t
  | illegal {offset : RegOffset} {c : Word} {e : DecodeError} (hr : Reg.ofOffset offset = some .cmd)
      (hdec : decode c = .error e) : MoveEnds s (.write .word offset c) (fail .illegal s)
  | writeReg {offset : RegOffset} {v : Word} {r : Reg} (hr : Reg.ofOffset offset = some r) (hcmd : r ≠ .cmd) :
      MoveEnds s (.write .word offset v) (s.writeReg r v)
  | readReg {offset : RegOffset} {r : Reg} (hr : Reg.ofOffset offset = some r) :
      MoveEnds s (.read .word offset) (s.reply (s.readReg r))
  | memWrite {address : Word} {v : Byte} (haddr : address.toNat < s.memSize) :
      MoveEnds s (.memWrite address v) (s.setMem (s.mem.write address.toNat v))
  | memRead {address : Word} (haddr : address.toNat < s.memSize) :
      MoveEnds s (.memRead address) (s.reply ((s.mem.read address.toNat).zeroExtend 32))
  | reset : MoveEnds s .reset (resetBlock s)
  | cutCommand {c : Word} : MoveEnds s (.cutCommand c) (cutCommand c s)

section
variable {s t : State}

theorem issueCommand_ends {offset : RegOffset} {c : Word} (hr : Reg.ofOffset offset = some .cmd)
    (h : issueCommand c s = .next t) : MoveEnds s (.write .word offset c) t := by
  rw [issueCommand] at h
  split at h
  · next i hdec => exact .command hr hdec (commandEnds_of_exec h)
  · next e hdec =>
    cases h
    exact .illegal hr hdec

theorem hostWrite_ends {width : AccessWidth} {offset : RegOffset} {v : Word}
    (h : hostWrite width offset v s = .next t) : MoveEnds s (.write width offset v) t := by
  by_cases hundef : width ≠ .word ∨ offset.toNat % 4 ≠ 0
  · rw [hostWrite_undefined hundef] at h
    cases h
  · obtain ⟨rfl, r, hr⟩ := access_defined hundef
    by_cases hcmd : r = .cmd
    · subst hcmd
      rw [hostWrite_cmd hr] at h
      exact issueCommand_ends hr h
    · rw [hostWrite_reg hr hcmd] at h
      cases h
      exact .writeReg hr hcmd

theorem hostRead_ends {width : AccessWidth} {offset : RegOffset} (h : hostRead width offset s = .next t) :
    MoveEnds s (.read width offset) t := by
  by_cases hundef : width ≠ .word ∨ offset.toNat % 4 ≠ 0
  · rw [hostRead_undefined hundef] at h
    cases h
  · obtain ⟨rfl, r, hr⟩ := access_defined hundef
    rw [hostRead_reg hr] at h
    cases h
    exact .readReg hr

theorem hostMemWrite_ends {address : Word} {v : Byte} (h : hostMemWrite address.toNat v s = .next t) :
    MoveEnds s (.memWrite address v) t := by
  rw [hostMemWrite] at h
  split at h
  · next haddr =>
    cases h
    exact .memWrite haddr
  · cases h

theorem hostMemRead_ends {address : Word} (h : hostMemRead address.toNat s = .next t) :
    MoveEnds s (.memRead address) t := by
  rw [hostMemRead] at h
  split at h
  · next haddr =>
    cases h
    exact .memRead haddr
  · cases h

theorem moveEnds_of_perform {a : HostAction} (h : perform a s = .next t) : MoveEnds s a t := by
  cases a with
  | write width offset v => exact hostWrite_ends h
  | read width offset => exact hostRead_ends h
  | memWrite address v => exact hostMemWrite_ends h
  | memRead address => exact hostMemRead_ends h
  | reset =>
    cases h
    exact .reset
  | cutCommand c =>
    cases h
    exact .cutCommand

/-- A step is idle, or it is the oldest move of the host (log 1). -/
theorem step_cases (h : step s = .next t) :
    s.host = [] ∧ t = s ∨ ∃ a rest, s.host = a :: rest ∧ MoveEnds (s.setHost rest) a t := by
  cases hhost : s.host with
  | nil =>
    rw [step_nil hhost] at h
    cases h
    exact .inl ⟨rfl, rfl⟩
  | cons a rest =>
    rw [step_cons hhost] at h
    exact .inr ⟨a, rest, rfl, moveEnds_of_perform h⟩

/-! ## The invariant -/

/-- The invariant speaks of the build, `STATUS`, the tables and `MEM` only. -/
theorem State.Inv.of_eq (h : s.Inv) (hbuild : t.build = s.build) (hstatus : t.status = s.status)
    (htables : t.tables = s.tables) (hmem : t.mem = s.mem) : t.Inv := by
  obtain ⟨hsize, hcanon, hexists, htab, hfault, herr⟩ := h
  constructor
  all_goals simpa only [State.memSize, hbuild, hstatus, htables, hmem]

theorem State.Inv.fail (h : s.Inv) (code : ErrCode) : (fail code s).Inv := by
  obtain ⟨hsize, hcanon, hexists, htab, hfault, -⟩ := h
  exact ⟨hsize, hcanon, hexists, htab, hfault, fun _ => rfl⟩

/-- Stores to addresses that exist keep `MEM` canonical and inside `MEM_SIZE` (R51). -/
theorem State.Inv.storeAll (h : s.Inv) {stores : List Host.Cell} (hstores : ∀ c ∈ stores, c.1 < s.memSize) :
    (s.setMem (s.mem.storeAll stores)).Inv := by
  obtain ⟨hsize, hcanon, hexists, htab, hfault, herr⟩ := h
  exact ⟨hsize, Memory.wf_storeAll hcanon, Memory.below_storeAll hstores hexists, htab, hfault, herr⟩

theorem State.Inv.memWrite (h : s.Inv) {a : Nat} (ha : a < s.memSize) (v : Byte) :
    (s.setMem (s.mem.write a v)).Inv :=
  h.storeAll (stores := [(a, v)]) (by simpa)

theorem State.Inv.resetBlock (h : s.Inv) : (resetBlock s).Inv := by
  obtain ⟨hsize, hcanon, hexists, -⟩ := h
  refine ⟨hsize, hcanon, hexists, fun T hT => ?_, fun hfault => ?_, fun herr => absurd rfl herr⟩
  · cases hT
  · cases hfault

/-- Whichever stores of a cut command have landed, they are to addresses that exist (R270). -/
theorem State.Inv.cutCommand (h : s.Inv) (c : Word) : (cutCommand c s).Inv := by
  have hstores : ∀ cell ∈ (wordStores c s).filter fun cell => Config.storeLanded s.freeCount cell.1,
      cell.1 < s.memSize := fun cell hcell => lt_memSize_of_mem_wordStores (List.mem_of_mem_filter hcell)
  exact (h.storeAll hstores).resetBlock.of_eq rfl rfl rfl rfl

/-- Tables to be had are those of the build, which is then legal. -/
theorem State.Inv.usableTables (h : s.Inv) {T : Tables} (hT : s.usableTables = some T) :
    s.build.legal = true ∧ T = s.build.tables := by
  obtain ht | ⟨-, -, hlegal, rfl⟩ := usableTables_some hT
  · exact h.tablesOfBuild T ht
  · exact ⟨hlegal, rfl⟩

/-- Tables are not to be had only on an illegal build. -/
theorem State.Inv.illegal_of_unusable (h : s.Inv) (hT : s.usableTables = none) : s.build.legal = false := by
  obtain ⟨-, hfault | hillegal⟩ := usableTables_none hT
  · exact h.faultMeansIllegal hfault
  · exact hillegal

/-- `TBL_VALID` and `CFG_FAULT` are never both 1: the one says that the build is legal, the other that it is not. -/
theorem State.Inv.not_tblValid_and_cfgFault (h : s.Inv) : ¬(s.tblValid = true ∧ s.status.cfgFault = true) := by
  rintro ⟨hvalid, hfault⟩
  obtain ⟨T, hT⟩ := Option.isSome_iff_exists.1 hvalid
  obtain ⟨hlegal, -⟩ := h.tablesOfBuild T hT
  simp [h.faultMeansIllegal hfault] at hlegal

/-- The state a command leaves meets the invariant, part by part. -/
theorem CommandEnds.inv {i : Instr} (hends : CommandEnds s i t) (h : s.Inv) : t.Inv := by
  have hmem : (s.setMem t.mem).Inv := by
    obtain ht | ⟨-, stores, hstores, ht⟩ := hends.mem
    · exact h.of_eq rfl rfl rfl ht
    · exact ht ▸ h.storeAll hstores
  have hsize : t.memSize = s.memSize := congrArg Build.memSize hends.frame.build
  refine ⟨hsize ▸ h.memSizeLegal, hmem.memCanonical, hsize ▸ hmem.memExists, fun T hT => ?_, fun hfault => ?_,
    fun herr => ?_⟩
  · rw [hends.frame.build]
    obtain ht | ⟨-, ht⟩ := hends.tables
    · exact h.tablesOfBuild T (ht.symm.trans hT)
    · exact h.usableTables (ht.symm.trans hT)
  · rw [hends.frame.build]
    obtain ht | ⟨-, hunusable, -⟩ := hends.cfgFault
    · exact h.faultMeansIllegal (ht.symm.trans hfault)
    · exact h.illegal_of_unusable hunusable
  · obtain ⟨-, hsticky, -⟩ | ⟨hok, -⟩ := hends.errSticky
    · exact hsticky
    · exact absurd hok herr

theorem MoveEnds.inv {a : HostAction} (hends : MoveEnds s a t) (h : s.Inv) : t.Inv := by
  cases hends with
  | command _ _ hcommand => exact hcommand.inv h
  | illegal => exact h.fail .illegal
  | writeReg => exact h.of_eq (by simp) (by simp) (by simp) (by simp)
  | readReg => exact h.of_eq rfl rfl rfl rfl
  | memWrite haddr => exact h.memWrite haddr _
  | memRead => exact h.of_eq rfl rfl rfl rfl
  | reset => exact h.resetBlock
  | cutCommand => exact h.cutCommand _

/-- A step keeps the invariant. -/
theorem step_inv (hstep : step s = .next t) (h : s.Inv) : t.Inv := by
  obtain ⟨-, rfl⟩ | ⟨a, rest, -, hends⟩ := step_cases hstep
  · exact h
  · exact hends.inv (h.of_eq rfl rfl rfl rfl)

/-! ## What stays -/

theorem MoveEnds.build {a : HostAction} (hends : MoveEnds s a t) : t.build = s.build := by
  cases hends with
  | command _ _ hcommand => exact hcommand.frame.build
  | writeReg => exact s.writeReg_build _ _
  | _ => rfl

/-- Only the reset input, between commands or cutting one short, takes the tables away or clears `CFG_FAULT` (R38). -/
theorem MoveEnds.tables_and_fault_stay {a : HostAction} (hends : MoveEnds s a t) (hreset : a ≠ .reset)
    (hcut : ∀ c, a ≠ .cutCommand c) :
    (∀ T, s.tables = some T → t.tables = some T) ∧ (s.status.cfgFault = true → t.status.cfgFault = true) := by
  cases hends with
  | command _ _ hcommand => exact ⟨fun T => hcommand.tables_stay, hcommand.cfgFault_stays⟩
  | writeReg => simp
  | reset => exact absurd rfl hreset
  | cutCommand => exact absurd rfl (hcut _)
  | _ => exact ⟨fun _ hT => hT, fun hfault => hfault⟩

end

/-- A build with a legal `MEM_SIZE` meets the invariant right after reset. -/
theorem resetOf_inv {b : Build} (h1 : 1 ≤ b.memSize) (h2 : b.memSize ≤ 2 ^ 32) : (State.resetOf b).Inv := by
  refine ⟨⟨h1, h2⟩, rfl, rfl, fun T hT => ?_, fun hfault => ?_, fun herr => absurd rfl herr⟩
  · cases hT
  · cases hfault

/-! ## The obligations -/

/-- Settles O46, move by move of the host; for a command, part by part of the state. -/
theorem stepKeepsTheInvariant : Obligations.StepKeepsTheInvariant := fun _ _ h hstep => step_inv hstep h

/-- Settles O47. -/
theorem resetMeetsTheInvariant : Obligations.ResetMeetsTheInvariant :=
  ⟨fun _ => resetOf_inv, resetOf_inv (by decide) (by decide)⟩

/-- Settles O48: only a reset takes tables or `CFG_FAULT` away, and the invariant keeps them apart. -/
theorem tablesAndFaultStayUntilReset : Obligations.TablesAndFaultStayUntilReset := by
  intro s t hstep
  have hapart : s.Inv → ¬(t.tblValid = true ∧ t.status.cfgFault = true) :=
    fun h => (step_inv hstep h).not_tblValid_and_cfgFault
  obtain ⟨-, rfl⟩ | ⟨a, rest, hhost, hends⟩ := step_cases hstep
  · exact ⟨rfl, fun _ _ => ⟨fun _ hT => hT, fun hfault => hfault⟩, hapart⟩
  · refine ⟨hends.build, fun hreset hcut => hends.tables_and_fault_stay ?_ ?_, hapart⟩
    · rintro rfl
      exact hreset rest hhost
    · rintro c rfl
      exact hcut c rest hhost

end Sys2Proof.Machine
end

section
/-! `MEM`: what a command can change of it (R55), and what the host reads back of what it stored (R54). -/

namespace Sys2Proof.Machine

/-! ## What a command changes of `MEM` (R55) -/

/-- A byte that a list of stores changes lies where they store. -/
theorem StoresInside.of_read_ne {memSize p n : Nat} {stores : List Host.Cell} {m : Memory} {a : Nat}
    (h : StoresInside memSize p n stores) (hcanon : m.wf = true) (hne : (m.storeAll stores).read a ≠ m.read a) :
    a < memSize ∧ p ≤ a ∧ a < p + n :=
  h _ ((Memory.read_storeAll_cases hcanon a).resolve_left hne)

/-- Only `ENCF` and `DECF` write `MEM`, each inside its own destination range (R21, R55). -/
theorem CommandEnds.mem_inside {s t : State} {i : Instr} (h : CommandEnds s i t) :
    t.mem = s.mem ∨
      (∃ stores, i = .encf ∧ StoresInside s.memSize s.fvPtr s.geometry.span stores ∧
        t.mem = s.mem.storeAll stores) ∨
      (∃ stores, i = .decf ∧ StoresInside s.memSize s.bufPtr s.geometry.bytesPerFrame stores ∧
        t.mem = s.mem.storeAll stores) := by
  cases h with
  | encf _ hinside => exact .inr (.inl ⟨_, rfl, hinside, rfl⟩)
  | decf _ hinside => exact .inr (.inr ⟨_, rfl, hinside, rfl⟩)
  | _ => exact .inl rfl

/-! ## The host's accesses to `MEM` (R50, R280) -/

section
variable {s : State} {address : Word} {rest : List HostAction}

/-- A byte stored at an address that exists changes `MEM` and nothing else. -/
theorem step_memWrite {v : Byte} (h : s.host = .memWrite address v :: rest) (haddr : address.toNat < s.memSize) :
    step s = .next { s with host := rest, mem := s.mem.write address.toNat v } :=
  (step_cons h).trans (if_pos haddr)

/-- A read at an address that exists answers the byte there and does nothing else. -/
theorem step_memRead (h : s.host = .memRead address :: rest) (haddr : address.toNat < s.memSize) :
    step s = .next { s with host := rest, replies := (s.mem.read address.toNat).zeroExtend 32 :: s.replies } :=
  (step_cons h).trans (if_pos haddr)

end

/-! ## The obligations -/

/-- Settles O43: a byte that differs was stored to, and the stores lie in the destination range. -/
theorem commandsWriteOnlyTheirRanges : Obligations.CommandsWriteOnlyTheirRanges := by
  intro i s t a hcanon h hne
  obtain hsame | ⟨stores, hi, hinside, hmem⟩ | ⟨stores, hi, hinside, hmem⟩ := (commandEnds_of_exec h).mem_inside
  · exact absurd (congrArg (·.read a) hsame) hne
  · obtain ⟨hexists, hlo, hhi⟩ := hinside.of_read_ne hcanon (hmem ▸ hne)
    exact ⟨hexists, .inl ⟨hi, hlo, hhi⟩⟩
  · obtain ⟨hexists, hlo, hhi⟩ := hinside.of_read_ne hcanon (hmem ▸ hne)
    exact ⟨hexists, .inr ⟨hi, hlo, hhi⟩⟩

/-- Settles O58: the two steps are a store and a read of `MEM`, and a read after a store is `Memory.read_write`. -/
theorem hostReadsTheLastByteWritten : Obligations.HostReadsTheLastByteWritten := by
  intro s a b v rest hcanon ha hb hhost
  refine ⟨_, s.mem.write a.toNat v, step_memWrite hhost ha, rfl, ?_, rfl, Memory.read_write hcanon⟩
  have hread : (s.mem.write a.toNat v).read b.toNat = if b = a then v else s.mem.read b.toNat := by
    simp only [Memory.read_write hcanon, BitVec.toNat_inj]
  rw [← hread]
  exact step_memRead rfl hb

end Sys2Proof.Machine
end

section
/-! The command words (R80 to R89): the three fields of a word, the decoder as the inverse of the encoder, the columns of
R83, the illegal words. -/

namespace Sys2Proof

/-! ## The fields of a word (R80) -/

section
open BitVec

@[simp] theorem extractLsb'_high_encode (i : Instr) : (encode i).extractLsb' 16 16 = 0 :=
  (extractLsb'_append_eq_of_le (by decide)).trans extractLsb'_append_eq_left

@[simp] theorem extractLsb'_imm8_encode (i : Instr) : (encode i).extractLsb' 8 8 = i.imm8 :=
  (extractLsb'_append_eq_of_le (by decide)).trans extractLsb'_append_eq_right

@[simp] theorem extractLsb'_opcode_encode (i : Instr) : (encode i).extractLsb' 0 8 = i.opcode :=
  extractLsb'_append_eq_right

/-- A word is its three fields side by side. -/
theorem append_fields (c : Word) : c.extractLsb' 16 16 ++ c.extractLsb' 8 8 ++ c.extractLsb' 0 8 = c := by
  have hupper : c.extractLsb' 16 16 ++ c.extractLsb' 8 8 = c.extractLsb' 8 24 :=
    extractLsb'_append_extractLsb'_eq_extractLsb' rfl
  rw [hupper]
  exact (extractLsb'_append_extractLsb'_eq_extractLsb' rfl).trans extractLsb'_eq_self

end

/-- The word of a command is the one with the command's fields. -/
theorem encode_eq_of_fields {i : Instr} {c : Word} (hhigh : c.extractLsb' 16 16 = 0) (himm : c.extractLsb' 8 8 = i.imm8)
    (hop : c.extractLsb' 0 8 = i.opcode) : encode i = c := by
  rw [encode, ← himm, ← hop]
  exact (congrArg (· ++ _ ++ _) hhigh.symm).trans (append_fields c)

/-- The `SYNTH` of a pattern that is given as a byte: bits 15:8 are the byte, and every byte is a pattern (R85). -/
theorem synth_toNat (v : Byte) : (Instr.synth v.toNat).wellFormed = true ∧ (Instr.synth v.toNat).imm8 = v :=
  ⟨decide_eq_true v.isLt, by simp [Instr.imm8]⟩

/-! ## The decoder and the encoder are inverse (R89) -/

/-- Decoding the word of a command looks its opcode up and, for `SYNTH`, reads the pattern. -/
theorem decode_encode {i : Instr} (h : i.wellFormed = true) : decode (encode i) = .ok i := by
  cases i with
  | synth pattern =>
    have hpattern : pattern < 256 := of_decide_eq_true h
    simp [decode, highField, opcodeField, imm8Field, Instr.opcode, Instr.imm8, Nat.mod_eq_of_lt hpattern]
  | _ => rfl

theorem formatZ_eq_ok {imm8 : Nat} {i j : Instr} (h : formatZ imm8 i = .ok j) : imm8 = 0 ∧ i = j := by
  rw [formatZ] at h
  split_ifs at h with himm
  exact ⟨himm, Except.ok.inj h⟩

/-- A word that passes the checks of R89 for a format Z command is that command's. -/
theorem encode_of_formatZ {c : Word} {i j : Instr} (hhigh : highField c = 0) (h : formatZ (imm8Field c) i = .ok j)
    (hop : opcodeField c = i.opcode.toNat) (himm : i.imm8 = 0) (hwf : i.wellFormed = true) :
    j.wellFormed = true ∧ encode j = c := by
  obtain ⟨hzero, rfl⟩ := formatZ_eq_ok h
  have hfield : c.extractLsb' 8 8 = 0 := BitVec.eq_of_toNat_eq hzero
  exact ⟨hwf, encode_eq_of_fields (BitVec.eq_of_toNat_eq hhigh) (hfield.trans himm.symm) (BitVec.eq_of_toNat_eq hop)⟩

/-- Every branch of R89 that answers a command has checked all three fields of the word. -/
theorem encode_of_decode {c : Word} {i : Instr} (h : decode c = .ok i) : i.wellFormed = true ∧ encode i = c := by
  rw [decode] at h
  split_ifs at h with hhigh
  rw [not_not] at hhigh
  split at h
  case h_4 hop =>
    obtain rfl := Except.ok.inj h
    obtain ⟨hwf, himm⟩ := synth_toNat (c.extractLsb' 8 8)
    exact ⟨hwf, encode_eq_of_fields (BitVec.eq_of_toNat_eq hhigh) himm.symm (BitVec.eq_of_toNat_eq hop)⟩
  case h_12 => cases h
  all_goals
    rename_i hop
    exact encode_of_formatZ hhigh h hop rfl rfl

theorem decode_eq_ok_iff {c : Word} {i : Instr} : decode c = .ok i ↔ i.wellFormed = true ∧ encode i = c :=
  ⟨encode_of_decode, fun ⟨hwf, hc⟩ => hc ▸ decode_encode hwf⟩

/-! ## The mask and match columns (R83) -/

/-- Every command's word meets the command's row. -/
theorem encode_and_mask (i : Instr) : encode i &&& i.mask = i.matchWord := by
  cases i with
  | synth pattern => exact (Laws.EncodingRow.synth pattern).1
  | _ => rfl

/-- A row whose mask covers the whole word selects the one word of its command. -/
theorem row_of_full_mask {c : Word} {i : Instr} (hwf : i.wellFormed = true) (hmask : i.mask = 0xFFFFFFFF#32) :
    c &&& 0xFFFFFFFF#32 = i.matchWord ↔ decode c = .ok i := by
  have hand : ∀ d : Word, d &&& 0xFFFFFFFF#32 = d := fun _ => BitVec.and_allOnes
  rw [decode_eq_ok_iff, and_iff_right hwf, ← encode_and_mask i, hmask, hand, hand, eq_comm]

/-- The row of `SYNTH` leaves out `imm8`: it selects `SYNTH` of every pattern. -/
theorem row_of_synth {c : Word} : c &&& 0xFFFF00FF#32 = 0x00000011#32 ↔ ∃ p, decode c = .ok (.synth p) := by
  constructor
  · intro h
    have hhigh : c.extractLsb' 16 16 &&& 0xFFFF#16 = 0 :=
      BitVec.extractLsb'_and.symm.trans (congrArg (BitVec.extractLsb' 16 16) h)
    have hop : c.extractLsb' 0 8 &&& 0xFF#8 = 0x11#8 :=
      BitVec.extractLsb'_and.symm.trans (congrArg (BitVec.extractLsb' 0 8) h)
    obtain ⟨hwf, himm⟩ := synth_toNat (c.extractLsb' 8 8)
    exact ⟨_, decode_eq_ok_iff.2 ⟨hwf, encode_eq_of_fields (BitVec.and_allOnes.symm.trans hhigh) himm.symm
      (BitVec.and_allOnes.symm.trans hop)⟩⟩
  · rintro ⟨p, h⟩
    obtain ⟨-, rfl⟩ := encode_of_decode h
    exact encode_and_mask (.synth p)

/-! ## The illegal words (R84, R89) -/

/-- The opcode column of R83. -/
def listedOpcodes : List Byte :=
  [0x01#8, 0x02#8, 0x10#8, 0x11#8, 0x12#8, 0x20#8, 0x21#8, 0x30#8, 0x40#8, 0x41#8, 0x42#8]

/-- One command for each row of R83, with `imm8` zero. -/
def rowCommands : List Instr :=
  [.nop, .clrerr, .tblinit, .synth 0, .extract, .encf, .decf, .sha256, .crc32, .pktcrc, .pktvfy]

theorem opcode_mem_listedOpcodes (i : Instr) : i.opcode ∈ listedOpcodes := by
  cases i <;> simp [listedOpcodes, Instr.opcode]

theorem opcode_eq_synth_or_imm8_eq_zero (i : Instr) : i.opcode = 0x11#8 ∨ i.imm8 = 0 := by
  cases i with
  | synth pattern => exact .inl rfl
  | _ => exact .inr rfl

/-- Every listed opcode is that of a row. -/
theorem exists_rowCommand :
    ∀ op ∈ listedOpcodes, ∃ i ∈ rowCommands, i.wellFormed = true ∧ i.opcode = op ∧ i.imm8 = 0 := by
  decide

/-- Fields that pass the checks of R89 are those of a command. -/
theorem exists_instr_of_fields {op imm : Byte} (hop : op ∈ listedOpcodes) (himm : op = 0x11#8 ∨ imm = 0) :
    ∃ i : Instr, i.wellFormed = true ∧ i.opcode = op ∧ i.imm8 = imm := by
  obtain rfl | rfl := himm
  · obtain ⟨hwf, himm⟩ := synth_toNat imm
    exact ⟨_, hwf, rfl, himm⟩
  · obtain ⟨i, -, hi⟩ := exists_rowCommand op hop
    exact ⟨i, hi⟩

/-- The legal words of R89. -/
theorem exists_decode_eq_ok_iff {c : Word} : (∃ i, decode c = .ok i) ↔
    c.extractLsb' 16 16 = 0 ∧ c.extractLsb' 0 8 ∈ listedOpcodes ∧
      (c.extractLsb' 0 8 = 0x11#8 ∨ c.extractLsb' 8 8 = 0) := by
  constructor
  · rintro ⟨i, h⟩
    obtain ⟨-, rfl⟩ := encode_of_decode h
    simpa using ⟨opcode_mem_listedOpcodes i, opcode_eq_synth_or_imm8_eq_zero i⟩
  · rintro ⟨hhigh, hop, himm⟩
    obtain ⟨i, hwf, hiop, hiimm⟩ := exists_instr_of_fields hop himm
    exact ⟨i, decode_eq_ok_iff.2 ⟨hwf, encode_eq_of_fields hhigh hiimm.symm hiop.symm⟩⟩

theorem exists_decode_eq_error_iff {c : Word} : (∃ e, decode c = .error e) ↔ ¬∃ i, decode c = .ok i := by
  cases decode c <;> simp

end Sys2Proof

namespace Sys2Proof.Machine

/-! ## The obligations -/

/-- Settles O1: `decode_encode`. -/
theorem encodedCommandDecodesBack : Obligations.EncodedCommandDecodesBack := fun _ => decode_encode

/-- Settles O2: `encode_of_decode`. -/
theorem decodedWordIsTheEncoding : Obligations.DecodedWordIsTheEncoding := fun _ _ => encode_of_decode

/-- Settles O3: ten rows have the full mask, and the row of `SYNTH` leaves out `imm8`. -/
theorem maskAndMatchSelectTheCommand : Obligations.MaskAndMatchSelectTheCommand := fun _ =>
  ⟨row_of_full_mask (i := .nop) rfl rfl, row_of_full_mask (i := .clrerr) rfl rfl,
    row_of_full_mask (i := .tblinit) rfl rfl, row_of_synth, row_of_full_mask (i := .extract) rfl rfl,
    row_of_full_mask (i := .encf) rfl rfl, row_of_full_mask (i := .decf) rfl rfl,
    row_of_full_mask (i := .sha256) rfl rfl, row_of_full_mask (i := .crc32) rfl rfl,
    row_of_full_mask (i := .pktcrc) rfl rfl, row_of_full_mask (i := .pktvfy) rfl rfl⟩

/-- Settles O4: a word is illegal exactly if it is not legal, and the fields of a legal word are its command's. -/
theorem illegalWordsAreThoseOfTheDecoder : Obligations.IllegalWordsAreThoseOfTheDecoder := by
  intro c
  refine ⟨?_, fun i h => ?_, fun p h => ?_⟩
  · rw [exists_decode_eq_error_iff, exists_decode_eq_ok_iff, not_and_or, not_and_or, not_or]
    rfl
  · obtain ⟨-, rfl⟩ := encode_of_decode h
    exact (extractLsb'_opcode_encode i).symm
  · obtain ⟨hwf, rfl⟩ := encode_of_decode h
    rw [extractLsb'_imm8_encode]
    exact (Nat.mod_eq_of_lt (of_decide_eq_true hwf)).symm

/-- Settles O5: each word is the encoding of its command. -/
theorem writtenOutWordsDecode : Obligations.WrittenOutWordsDecode :=
  ⟨decode_encode (i := .nop) rfl, decode_encode (i := .tblinit) rfl, decode_encode (i := .synth 10) rfl,
    decode_encode (i := .synth 255) rfl, decode_encode (i := .encf) rfl, decode_encode (i := .sha256) rfl,
    decode_encode (i := .pktvfy) rfl⟩

/-- Settles O7: a word that does not decode ends in `fail`, which writes the two fields of the status. -/
theorem illegalWordOnlySetsTheError : Obligations.IllegalWordOnlySetsTheError := by
  intro s rest c e h herr
  rw [step_write h, hostWrite_cmd rfl]
  simp only [issueCommand, herr]
  rfl

end Sys2Proof.Machine
end

section
/-! The tables (40_tables.md): the commands that construct them or are refused (R100, R101), and the bytes of the pattern
table (R110). -/

namespace Sys2Proof.Machine

/-! ## Commands with and without tables (R101) -/

theorem usableTables_of_refused {s : State} (ht : s.tables = none)
    (hbuild : s.status.cfgFault = true ∨ s.build.legal = false) : s.usableTables = none := by
  obtain hfault | hillegal := hbuild
  · simp [State.usableTables, ht, hfault]
  · simp [State.usableTables, ht, hillegal]

theorem usableTables_of_legal {s : State} (ht : s.tables = none) (hfault : s.status.cfgFault = false)
    (hlegal : s.build.legal = true) : s.usableTables = some s.build.tables := by
  simp [State.usableTables, ht, hfault, hlegal]

/-- Of the ways a command ends, only `noTables` is left to one that needs tables and can have none. -/
theorem exec_of_unusable {s : State} {i : Instr} (hi : i.usesTables = true) (hT : s.usableTables = none) :
    exec i s = .next (fail .config (s.setStatus s.status.refuseConfig)) := by
  obtain ⟨t, hexec, hends⟩ := exec_ends s i
  rw [hexec]
  cases hends with
  | noTables => rfl
  | failedWithTables _ hsome | tblinit hsome | synth _ hsome | extract hsome | encf hsome | decf hsome =>
    simp [hT] at hsome
  | failed hmem =>
    have huses : ∀ j ∈ [Instr.sha256, .crc32, .pktcrc], j.usesTables = false := by decide
    simp [huses i hmem] at hi
  | _ => cases hi

theorem exec_tblinit_of_usable {s : State} {T : Tables} (hT : s.usableTables = some T) :
    exec .tblinit s = .next (done (s.setTables (some T))) := by
  simp [exec, execTblinit, ensureTables_of_usable hT]

theorem State.setTables_self {s : State} {T : Tables} (hT : s.tables = some T) : s.setTables (some T) = s := by
  rw [State.setTables, ← hT]

/-! ## The pattern table (R13, R110) -/

/-- `to_u8` in the units of the rule: clamping and dividing by the unit may be exchanged (R13). -/
theorem toNat_toU8 (q : F32) : ((toU8 q).toNat : Int) = ⌊min (max ((q : ℚ) / 2 ^ 149) 0) 255⌋ := by
  have hunit : (0 : ℚ) ≤ 2 ^ 149 := by positivity
  have hscale : min (max ((q : ℚ) / 2 ^ 149) 0) 255 =
      ((min (max q 0) (255 * F32.one) : Int) : ℚ) / (2 ^ 149 : Nat) :=
    calc min (max ((q : ℚ) / 2 ^ 149) 0) 255
      _ = min (max ((q : ℚ) / 2 ^ 149) (0 / 2 ^ 149)) (255 * 2 ^ 149 / 2 ^ 149) := by norm_num
      _ = min (max (q : ℚ) 0) (255 * 2 ^ 149) / 2 ^ 149 := by
        rw [max_div_div_right hunit, min_div_div_right hunit]
      _ = _ := by norm_num [F32.one]
  rw [hscale, Rat.floor_intCast_div_natCast, toU8, F32.one, BitVec.toNat_ofNat]
  push_cast
  omega

theorem signedBy_eq_mul (B b p : Nat) (v : F32) :
    signedBy B b p v = (if p.testBit (B - 1 - b) then (1 : Int) else -1) * v := by
  rw [signedBy]
  split_ifs
  · exact (one_mul v).symm
  · exact (neg_one_mul v).symm

theorem patSum_eq_sum (B : Nat) (dcimg : List F32) (emb : List (List F32)) (p k : Nat) :
    patSum B dcimg emb p k = dcimg.getD k 0 +
      ∑ b ∈ Finset.range B, (if p.testBit (B - 1 - b) then (1 : Int) else -1) * (emb.getD b []).getD k 0 := by
  simp only [← signedBy_eq_mul]
  rfl

theorem Tables.construct_pat_entry (B : Nat) (S : F32) {p k : Nat} (hp : p < 2 ^ B) (hk : k < 64) :
    ((Tables.construct B S).pat.getD p []).getD k 0 =
      patEntry B (Tables.construct B S).dcimg (Tables.construct B S).emb p k := by
  have hrow : (Tables.construct B S).pat.getD p [] =
      (List.range 64).map (patEntry B (Tables.construct B S).dcimg (Tables.construct B S).emb p) :=
    (getD_map_range _ (2 ^ B) p).trans (if_pos hp)
  rw [hrow]
  simp [List.getD, hk]

/-! ## The obligations -/

/-- Settles O10: `ensure_tables()` leaves tables that are there as they are, and puts those of a legal build there. -/
theorem tblinitConstructsTheTablesOnce : Obligations.TblinitConstructsTheTablesOnce := by
  refine fun s => ⟨fun T ht => ?_, fun ht hfault hlegal => ?_⟩
  · rw [exec_tblinit_of_usable (usableTables_of_tables ht), State.setTables_self ht]
    rfl
  · exact exec_tblinit_of_usable (usableTables_of_legal ht hfault hlegal)

/-- Settles O11: `exec_of_unusable`. -/
theorem tableCommandsRefuseAnIllegalBuild : Obligations.TableCommandsRefuseAnIllegalBuild :=
  fun _ _ hi ht hbuild => exec_of_unusable hi (usableTables_of_refused ht hbuild)

/-- Settles O17: the entry is `to_u8` of the exact sum, whose signs are factors of 1 and -1. -/
theorem patternBytesAreClampedTruncatedSums : Obligations.PatternBytesAreClampedTruncatedSums := by
  intro B S p k hp hk
  rw [Tables.construct_pat_entry B S hp hk, patEntry, toNat_toU8, patSum_eq_sum]

end Sys2Proof.Machine
end

section
/-! The cosine constants (R102). The real cosines of the multiples of π/16 are enclosed by halving angles: the cosine of
π/2 is 0, and bounds on the cosine of an angle's double give bounds on its own. -/

namespace Sys2Proof.Machine

open F32

/-! ## The real cosines of the multiples of π/16 -/

/-- The real number that `c_k` stands for (R102). -/
noncomputable def sixteenthCos (k : Nat) : ℝ := Real.cos (k * Real.pi / 16)

theorem sixteenthCos_double (k : Nat) : sixteenthCos (2 * k) = 2 * sixteenthCos k ^ 2 - 1 := by
  rw [sixteenthCos, sixteenthCos, ← Real.cos_two_mul]
  congr 1
  push_cast
  ring

theorem sixteenthCos_supplement {n k : Nat} (h : n + k = 16) : sixteenthCos k = -sixteenthCos n := by
  have hk : (k : ℝ) = 16 - n := by
    rw [eq_sub_iff_add_eq']
    exact_mod_cast h
  rw [sixteenthCos, sixteenthCos, ← Real.cos_pi_sub, hk]
  congr 1
  ring

theorem sixteenthCos_nonneg {k : Nat} (hk : k ≤ 8) : 0 ≤ sixteenthCos k := by
  have hk' : (k : ℝ) ≤ 8 := by exact_mod_cast hk
  have hpi := Real.pi_pos
  have h0 : 0 ≤ k * Real.pi / 16 := by positivity
  have h1 : k * Real.pi ≤ 8 * Real.pi := by gcongr
  exact Real.cos_nonneg_of_mem_Icc ⟨by linarith, by linarith⟩

/-- `a0` stands for the same number as `c_4`. -/
theorem sixteenthCos_four : sixteenthCos 4 = 1 / Real.sqrt 2 := by
  rw [one_div, ← Real.sqrt_div_self, ← Real.cos_pi_div_four, sixteenthCos]
  congr 1
  norm_num
  ring

/-! ## Enclosures -/

theorem sixteenthCos_mem_Icc_of_double {n k : Nat} {lo hi lo' hi' : ℝ} (h : sixteenthCos n ∈ Set.Icc lo' hi')
    (hn : n = 2 * k) (hk : k ≤ 8) (hhi : 0 ≤ hi) (hlo' : 2 * lo ^ 2 - 1 ≤ lo') (hhi' : hi' ≤ 2 * hi ^ 2 - 1) :
    sixteenthCos k ∈ Set.Icc lo hi := by
  rw [hn, sixteenthCos_double] at h
  obtain ⟨hlo, hup⟩ := h
  exact ⟨le_of_sq_le_sq (by linarith) (sixteenthCos_nonneg hk), le_of_sq_le_sq (by linarith) hhi⟩

theorem sixteenthCos_mem_Icc_of_supplement {n k : Nat} {lo hi : ℝ} (h : sixteenthCos n ∈ Set.Icc lo hi)
    (hn : n + k = 16) : sixteenthCos k ∈ Set.Icc (-hi) (-lo) := by
  rw [sixteenthCos_supplement hn]
  exact ⟨neg_le_neg h.2, neg_le_neg h.1⟩

theorem sixteenthCos_zero_mem : sixteenthCos 0 ∈ Set.Icc 1 1 := by simp [sixteenthCos]

theorem sixteenthCos_eight_mem : sixteenthCos 8 ∈ Set.Icc 0 0 := by
  have h := sixteenthCos_supplement (n := 8) (k := 8) rfl
  exact ⟨by linarith, by linarith⟩

theorem sixteenthCos_four_mem : sixteenthCos 4 ∈ Set.Icc 0.7071067811865475 0.7071067811865476 := by
  apply sixteenthCos_mem_Icc_of_double sixteenthCos_eight_mem rfl <;> norm_num

theorem sixteenthCos_twelve_mem : sixteenthCos 12 ∈ Set.Icc (-0.7071067811865476) (-0.7071067811865475) :=
  sixteenthCos_mem_Icc_of_supplement sixteenthCos_four_mem rfl

theorem sixteenthCos_two_mem : sixteenthCos 2 ∈ Set.Icc 0.92387953251 0.92387953252 := by
  apply sixteenthCos_mem_Icc_of_double sixteenthCos_four_mem rfl <;> norm_num

theorem sixteenthCos_fourteen_mem : sixteenthCos 14 ∈ Set.Icc (-0.92387953252) (-0.92387953251) :=
  sixteenthCos_mem_Icc_of_supplement sixteenthCos_two_mem rfl

theorem sixteenthCos_six_mem : sixteenthCos 6 ∈ Set.Icc 0.38268343236 0.38268343237 := by
  apply sixteenthCos_mem_Icc_of_double sixteenthCos_twelve_mem rfl <;> norm_num

theorem sixteenthCos_ten_mem : sixteenthCos 10 ∈ Set.Icc (-0.38268343237) (-0.38268343236) :=
  sixteenthCos_mem_Icc_of_supplement sixteenthCos_six_mem rfl

/-! ## The constants -/

/-- A constant of `m · 2^-26` is within `2^-p` of the cosine if the bounds `m · 2^-26 ± 2^-p` are bounds on it. -/
theorem abs_cosine_sub_le_of_mem {n k m p : Nat} {lo hi : ℝ} (h : sixteenthCos n ∈ Set.Icc lo hi)
    (hn : n = 2 * k) (hk : k ≤ 8) (hm : cosine k = m * 2 ^ 123)
    (hlo : 2 * (m / 2 ^ 26 - 1 / 2 ^ p) ^ 2 - 1 ≤ lo) (hhi : hi ≤ 2 * (m / 2 ^ 26 + 1 / 2 ^ p) ^ 2 - 1) :
    |((cosine k : Int) : ℝ) / 2 ^ 149 - sixteenthCos k| ≤ 1 / 2 ^ p := by
  have hvalue : ((cosine k : Int) : ℝ) / 2 ^ 149 = m / 2 ^ 26 := by
    rw [hm]
    push_cast
    ring
  obtain ⟨hl, hu⟩ := sixteenthCos_mem_Icc_of_double h hn hk (by positivity) hlo hhi
  rw [hvalue, abs_sub_le_iff]
  exact ⟨by linarith, by linarith⟩

/-- Each constant by the enclosure of the cosine of its doubled angle; `m` is its significand, shifted to units of
`2^-26`. -/
theorem abs_cosine_sub_le {k : Nat} (hk : k < 8) : |((cosine k : Int) : ℝ) / 2 ^ 149 - sixteenthCos k| ≤
    1 / 2 ^ (if k < 6 then 25 else if k = 6 then 26 else 27) := by
  interval_cases k
  · apply abs_cosine_sub_le_of_mem sixteenthCos_zero_mem rfl (m := 8388608 * 8) (by decide) (by decide) <;> norm_num
  · apply abs_cosine_sub_le_of_mem sixteenthCos_two_mem rfl (m := 16454846 * 4) (by decide) (by decide) <;> norm_num
  · apply abs_cosine_sub_le_of_mem sixteenthCos_four_mem rfl (m := 15500126 * 4) (by decide) (by decide) <;> norm_num
  · apply abs_cosine_sub_le_of_mem sixteenthCos_six_mem rfl (m := 13949745 * 4) (by decide) (by decide) <;> norm_num
  · apply abs_cosine_sub_le_of_mem sixteenthCos_eight_mem rfl (m := 11863283 * 4) (by decide) (by decide) <;> norm_num
  · apply abs_cosine_sub_le_of_mem sixteenthCos_ten_mem rfl (m := 9320922 * 4) (by decide) (by decide) <;> norm_num
  · apply abs_cosine_sub_le_of_mem sixteenthCos_twelve_mem rfl (m := 12840725 * 2) (by decide) (by decide) <;> norm_num
  · apply abs_cosine_sub_le_of_mem sixteenthCos_fourteen_mem rfl (m := 13092290) (by decide) (by decide) <;> norm_num

/-! ## The obligations -/

/-- Settles O16: every pattern has a binary32 value, and `abs_cosine_sub_le`; `a0` is `c_4`. -/
theorem cosineConstantsAreNearest : Obligations.CosineConstantsAreNearest := by
  refine ⟨fun k hk => ⟨representable_ofBits _, abs_cosine_sub_le hk⟩, representable_ofBits _, ?_⟩
  rw [← sixteenthCos_four]
  exact abs_cosine_sub_le (k := 4) (by decide)

end Sys2Proof.Machine
end

section
/-! Single blocks (41_block_synth.md): what `SYNTH` does with tables to be had, and the bytes it puts into `BLK`. -/

namespace Sys2Proof.Machine

/-! ## SYNTH with tables (R130, R133) -/

section
variable {s : State} {T : Tables} {p : Nat}

theorem exec_synth_of_usable (hT : s.usableTables = some T) (hp : p < 2 ^ s.bits) :
    exec (.synth p) s = .next (done ((s.setTables (some T)).setBlk (T.synthesise p))) := by
  simp [exec, execSynth, ensureTables_of_usable hT, Nat.not_le.2 hp]

theorem exec_synth_of_pattern_ge (hT : s.usableTables = some T) (hp : 2 ^ s.bits ≤ p) :
    exec (.synth p) s = .next (fail .operand (s.setTables (some T))) := by
  simp [exec, execSynth, ensureTables_of_usable hT, hp]

end

@[simp] theorem Tables.synthesise_getElem (T : Tables) (p : Nat) {k : Nat} (hk : k < 64) :
    (T.synthesise p)[k] = T.patByte p k := by
  simp [Tables.synthesise]

/-! ## The obligations -/

/-- Settles O18: the pattern is compared with `2^B` once the tables are there, and `BLK` is `T.synthesise p`. -/
theorem synthPutsThePatternIntoBlk : Obligations.SynthPutsThePatternIntoBlk :=
  fun _ T p hT =>
    ⟨fun hp => ⟨T.synthesise p, exec_synth_of_usable hT hp, fun _ hk => Tables.synthesise_getElem T p hk⟩,
      exec_synth_of_pattern_ge hT⟩

end Sys2Proof.Machine
end

section
/-! The projections (40_tables.md R108, R112): each is orthogonal to a constant block, and its entries are multiples of
`2^-28` below 1. -/

namespace Sys2Proof.Machine

open F32

/-! ## Products (R10) -/

theorem F32.rn_neg (q : Int) : rn (-q) = -rn q := by
  obtain hq | rfl | hq := lt_trichotomy q 0
  · rw [rn, rn, Int.natAbs_neg, if_neg (by omega), if_pos hq, neg_neg]
  · decide
  · rw [rn, rn, Int.natAbs_neg, if_pos (by omega), if_neg (by omega)]

theorem F32.fmul_neg (x y : F32) : fmul x (-y) = -fmul x y := by
  rw [fmul, fmul, ← rn_neg]
  exact congrArg rn (mul_neg x y)

theorem F32.fmul_comm (x y : F32) : fmul x y = fmul y x := congrArg rn (mul_comm x y)

/-- Rounding does not fall below a bound that is itself a binary32 value. -/
theorem F32.NearestEven.le_natAbs {q x : Int} {c : Nat} (h : NearestEven q x) (hc : Representable (c : Int))
    (hq : c * 2 ^ 149 ≤ q.natAbs) : c ≤ x.natAbs := by
  obtain ⟨hle, -⟩ := h.2 c hc
  obtain ⟨hle', -⟩ := h.2 (-c) (representable_neg.2 hc)
  have hdx := abs_cases (x * 2 ^ 149 - q)
  have hdc := abs_cases ((c : Int) * 2 ^ 149 - q)
  have hdc' := abs_cases (-(c : Int) * 2 ^ 149 - q)
  omega

/-- A factor of at most 1 in magnitude does not make a product grow. -/
theorem F32.natAbs_fmul_le {x y : F32} (hx : Representable x) (hy : Within (2 ^ 149) y) :
    (fmul x y).natAbs ≤ x.natAbs :=
  (Within.fmul_one ⟨hx, le_rfl⟩ hy hx).2

/-- The significand has 24 bits, so a value that is not small is a multiple of a large unit. -/
theorem F32.two_pow_dvd_of_representable {x : Int} {k : Nat} (hx : Representable x) (hk : 2 ^ (k + 23) ≤ x.natAbs) :
    (2 : Int) ^ k ∣ x := by
  obtain ⟨m, e, hm, hval⟩ := hx
  have hke : k ≤ e := by
    by_contra! hlt
    have hsmall : m * 2 ^ e < 2 ^ (k + 23) :=
      calc m * 2 ^ e < 2 ^ 24 * 2 ^ e := Nat.mul_lt_mul_of_pos_right hm (by positivity)
        _ = 2 ^ (e + 24) := by ring
        _ ≤ 2 ^ (k + 23) := Nat.pow_le_pow_right (by decide) (by omega)
    omega
  have hdvd : 2 ^ k ∣ x.natAbs := hval ▸ (pow_dvd_pow 2 hke).mul_left m
  exact_mod_cast Int.natCast_dvd.2 hdvd

/-! ## Cosines at the frequencies of the embed positions (R103, R114) -/

/-- Each basis image oscillates along one of its axes: a frequency of 1 or 2. -/
theorem embedPosition_oscillates {b : Nat} (hb : b < 4) :
    (embedPosition b).1 ∈ [1, 2] ∨ (embedPosition b).2 ∈ [1, 2] := by
  interval_cases b <;> decide

theorem embedPosition_lt (b : Nat) : (embedPosition b).1 < 3 ∧ (embedPosition b).2 < 3 := by
  obtain hb | hb := lt_or_ge b 4
  · interval_cases b <;> decide
  · rw [embedPosition, List.getD_eq_default _ _ hb]
    decide

/-- The sample with the opposite cosine: mirrored in the whole axis at frequency 1, in its half at frequency 2. -/
def oppositeSample (j i : Nat) : Nat := i ^^^ (8 / j - 1)

theorem cosEntry_oppositeSample {i j : Nat} (hi : i < 8) (hj : j ∈ [1, 2]) :
    oppositeSample j i < 8 ∧ oppositeSample j i ≠ i ∧ cosEntry (oppositeSample j i) j = -cosEntry i j := by
  have h : ∀ j ∈ [1, 2], ∀ i < 8,
    oppositeSample j i < 8 ∧ oppositeSample j i ≠ i ∧ cosEntry (oppositeSample j i) j = -cosEntry i j := by decide
  exact h j hj i hi

theorem oppositeSample_oppositeSample (j i : Nat) : oppositeSample j (oppositeSample j i) = i :=
  Nat.xor_xor_cancel_right _ _

/-- Along an oscillating axis the products cancel in pairs of opposite samples. -/
theorem sum_fmul_cosEntry (a : F32) {j : Nat} (hj : j ∈ [1, 2]) :
    ∑ i ∈ Finset.range 8, (fmul a (cosEntry i j) : Int) = 0 := by
  refine Finset.sum_involution (fun i _ => oppositeSample j i) (fun i hi => ?_) (fun i hi _ => ?_) (fun i hi => ?_)
    (fun i _ => oppositeSample_oppositeSample j i) <;>
    obtain ⟨hlt, hne, hneg⟩ := cosEntry_oppositeSample (Finset.mem_range.1 hi) hj
  · rw [hneg, fmul_neg]
    exact add_neg_cancel _
  · exact hne
  · exact Finset.mem_range.2 hlt

theorem le_natAbs_cosEntry {i j : Nat} (hi : i < 8) (hj : j < 3) : 3 * 2 ^ 145 ≤ (cosEntry i j).natAbs := by
  have h : ∀ i < 8, ∀ j < 3, 3 * 2 ^ 145 ≤ (cosEntry i j).natAbs := by decide
  exact h i hi j hj

theorem natAbs_cosEntry_lt {i j : Nat} (hi : i < 8) (hj : j ∈ [1, 2]) : (cosEntry i j).natAbs < 2 ^ 149 := by
  have h : ∀ j ∈ [1, 2], ∀ i < 8, (cosEntry i j).natAbs < 2 ^ 149 := by decide
  exact h j hj i hi

theorem sum_natAbs_cosEntry_lt {j : Nat} (hj : j ∈ [1, 2]) :
    255 * (8 * ∑ i ∈ Finset.range 8, (cosEntry i j).natAbs) < 10662 * 2 ^ 149 := by
  have h : ∀ j ∈ [1, 2], 255 * (8 * ∑ i ∈ Finset.range 8, (cosEntry i j).natAbs) < 10662 * 2 ^ 149 := by decide
  exact h j hj

/-! ## Sums over a block (R109) -/

/-- A sum over the flattened index, row by row. -/
theorem sum_flattened {M : Type*} [AddCommMonoid M] (f : Nat → Nat → M) (n : Nat) :
    ∑ k ∈ Finset.range (8 * n), f (k / 8) (k % 8) = ∑ x ∈ Finset.range n, ∑ y ∈ Finset.range 8, f x y := by
  induction n with
  | zero => rfl
  | succ n ih =>
    have hrow : ∀ y ∈ Finset.range 8, f ((8 * n + y) / 8) ((8 * n + y) % 8) = f n y := fun y hy => by
      have hy := Finset.mem_range.1 hy
      rw [show (8 * n + y) / 8 = n by omega, show (8 * n + y) % 8 = y by omega]
    rw [mul_add_one, Finset.sum_range_add, ih, Finset.sum_range_succ _ n, Finset.sum_congr rfl hrow]

theorem getD_flatten64_of_lt {α : Type} (f : Nat → Nat → α) {k : Nat} (hk : k < 64) (d : α) :
    (flatten64 f).getD k d = f (k / 8) (k % 8) := by
  rw [← getD_flatten64 f (Nat.div_lt_of_lt_mul hk) (Nat.mod_lt k (by decide)) d, Nat.div_add_mod]

/-! ## The entries of a projection (R108, R112, R143) -/

section
variable {b x y : Nat}

theorem natAbs_projEntry_le_left : (projEntry b x y).natAbs ≤ (cosEntry x (embedPosition b).1).natAbs :=
  natAbs_fmul_le (within_cosEntry _ _).1 (within_cosEntry _ _)

theorem natAbs_projEntry_le_right : (projEntry b x y).natAbs ≤ (cosEntry y (embedPosition b).2).natAbs := by
  rw [projEntry, fmul_comm]
  exact natAbs_fmul_le (within_cosEntry _ _).1 (within_cosEntry _ _)

theorem natAbs_projEntry_lt (hb : b < 4) (hx : x < 8) (hy : y < 8) : (projEntry b x y).natAbs < 2 ^ 149 := by
  obtain hj | hj := embedPosition_oscillates hb
  · exact natAbs_projEntry_le_left.trans_lt (natAbs_cosEntry_lt hx hj)
  · exact natAbs_projEntry_le_right.trans_lt (natAbs_cosEntry_lt hy hj)

/-- The factors are at least 3/16 in magnitude, so the product is at least `2^-5`. -/
theorem two_pow_dvd_projEntry (b : Nat) (hx : x < 8) (hy : y < 8) : (2 : Int) ^ 121 ∣ projEntry b x y := by
  obtain ⟨hu, hv⟩ := embedPosition_lt b
  refine two_pow_dvd_of_representable (within_projEntry b x y).1
    ((nearestEven_rn _).le_natAbs (representable_two_pow 144) ?_)
  rw [Int.natAbs_mul]
  calc 2 ^ 144 * 2 ^ 149 ≤ (3 * 2 ^ 145) * (3 * 2 ^ 145) := by decide
    _ ≤ _ := Nat.mul_le_mul (le_natAbs_cosEntry hx hu) (le_natAbs_cosEntry hy hv)

/-- Every projection is orthogonal to a constant block (R112). -/
theorem sum_projEntry (hb : b < 4) : ∑ k ∈ Finset.range 64, (projEntry b (k / 8) (k % 8) : Int) = 0 := by
  rw [sum_flattened (fun x y => (projEntry b x y : Int)) 8]
  obtain hj | hj := embedPosition_oscillates hb
  · rw [Finset.sum_comm]
    refine Finset.sum_eq_zero fun y _ => ?_
    simp only [projEntry, fmul_comm (cosEntry _ (embedPosition b).1)]
    exact sum_fmul_cosEntry _ hj
  · exact Finset.sum_eq_zero fun x _ => sum_fmul_cosEntry _ hj

/-- Along an oscillating axis a projection is at most the cosine; across it there are 8 such lines. -/
theorem sum_natAbs_projEntry_lt (hb : b < 4) :
    255 * ∑ k ∈ Finset.range 64, (projEntry b (k / 8) (k % 8)).natAbs < 10662 * 2 ^ 149 := by
  rw [sum_flattened (fun x y => (projEntry b x y).natAbs) 8]
  obtain hj | hj := embedPosition_oscillates hb
  · rw [Finset.sum_comm]
    refine lt_of_le_of_lt (Nat.mul_le_mul_left 255 ?_) (sum_natAbs_cosEntry_lt hj)
    exact Finset.sum_le_card_nsmul _ _ _ fun y _ => Finset.sum_le_sum fun x _ => natAbs_projEntry_le_left
  · refine lt_of_le_of_lt (Nat.mul_le_mul_left 255 ?_) (sum_natAbs_cosEntry_lt hj)
    exact Finset.sum_le_card_nsmul _ _ _ fun x _ => Finset.sum_le_sum fun y _ => natAbs_projEntry_le_right

end

end Sys2Proof.Machine
end

section
/-! The extractor (42_block_extract.md): the sums over a block and the bits they give, `EXTRACT` with tables to be had,
and the size of the sums. -/

namespace Sys2Proof.Machine

/-! ## The sums and the pattern (R141) -/

theorem blockSum_eq_sum (row : List F32) (block : List Byte) :
    blockSum row block = ∑ k ∈ Finset.range 64, ((block.getD k 0).toNat : Int) * row.getD k 0 := rfl

/-- A number put together from bits, most significant first. -/
theorem sum_bits_eq_ofBits (P : Nat → Prop) [DecidablePred P] (n : Nat) :
    ((List.range n).map fun b => if P b then 2 ^ (n - 1 - b) else 0).sum =
      Nat.ofBits fun i : Fin n => decide (P (n - 1 - i)) := by
  induction n with
  | zero => rfl
  | succ n ih =>
    have hhigh : ((List.range n).map fun b => if P b then 2 ^ (n + 1 - 1 - b) else 0) =
        (List.range n).map fun b => 2 * if P b then 2 ^ (n - 1 - b) else 0 := by
      refine List.map_congr_left fun b hb => ?_
      have hb := List.mem_range.1 hb
      rw [mul_ite, mul_zero, ← pow_succ', show n - 1 - b + 1 = n + 1 - 1 - b by omega]
    have hshift : ((fun i : Fin (n + 1) => decide (P (n + 1 - 1 - i))) ∘ Fin.succ) =
        fun i : Fin n => decide (P (n - 1 - i)) := by
      funext i
      simp only [Function.comp_apply, Fin.val_succ, show n + 1 - 1 - (i.val + 1) = n - 1 - i by omega]
    rw [List.range_succ, List.map_append, List.sum_append, hhigh, List.sum_map_mul_left, ih, Nat.ofBits_succ, hshift]
    by_cases hn : P n <;> simp [hn]

theorem testBit_extractPattern (B : Nat) (proj : List (List F32)) (block : List Byte) (j : Nat) :
    (extractPattern B proj block).testBit j =
      decide (j < B ∧ 0 < blockSum (proj.getD (B - 1 - j) []) block) := by
  rw [extractPattern, sum_bits_eq_ofBits, Nat.testBit_ofBits]
  by_cases hj : j < B <;> simp [hj]

theorem testBit_extractPattern_of_lt (proj : List (List F32)) (block : List Byte) {b B : Nat} (hb : b < B) :
    (extractPattern B proj block).testBit (B - 1 - b) = decide (0 < blockSum (proj.getD b []) block) := by
  have hlt : B - 1 - b < B := by omega
  have hrow : B - 1 - (B - 1 - b) = b := by omega
  simp [testBit_extractPattern, hlt, hrow]

/-- The pattern depends on the block by its sums only. -/
theorem extractPattern_congr {B : Nat} {proj : List (List F32)} {block block' : List Byte}
    (h : ∀ b < B, blockSum (proj.getD b []) block' = blockSum (proj.getD b []) block) :
    extractPattern B proj block' = extractPattern B proj block := by
  refine Nat.eq_of_testBit_eq fun j => ?_
  rw [testBit_extractPattern, testBit_extractPattern]
  exact decide_eq_decide.2 (and_congr_right fun hj => by rw [h _ (by omega)])

theorem extractPattern_eq_zero {B : Nat} {proj : List (List F32)} {block : List Byte}
    (h : ∀ b < B, blockSum (proj.getD b []) block = 0) : extractPattern B proj block = 0 := by
  refine Nat.eq_of_testBit_eq fun j => ?_
  rw [testBit_extractPattern, Nat.zero_testBit, decide_eq_false_iff_not]
  rintro ⟨hj, hpos⟩
  exact hpos.ne' (h _ (by omega))

/-! ## Constant blocks and uniform shifts (R142, R145) -/

theorem Build.bits_le_four {b : Build} (h : b.legal = true) : b.bits ≤ 4 := by
  obtain ⟨hB, -⟩ := Bool.and_eq_true_iff.1 h
  have := legalB_iff.1 hB
  rw [Build.bits]
  omega

theorem sum_projRow {b : Build} (h : b.legal = true) {i : Nat} (hi : i < b.bits) :
    ∑ k ∈ Finset.range 64, ((b.tables.proj.getD i []).getD k 0 : Int) = 0 := by
  have hbits := Build.bits_le_four h
  rw [Build.tables, Tables.construct_proj, if_pos hi]
  refine Eq.trans (Finset.sum_congr rfl fun k hk => ?_) (sum_projEntry (show i < 4 by omega))
  exact getD_flatten64_of_lt _ (Finset.mem_range.1 hk) 0

/-- Over a row that sums to zero, adding one integer to every byte adds nothing to the sum. -/
theorem blockSum_of_shift {row : List F32} {block block' : List Byte} {d : Int}
    (hrow : ∑ k ∈ Finset.range 64, (row.getD k 0 : Int) = 0)
    (h : ∀ k < 64, ((block'.getD k 0).toNat : Int) = ((block.getD k 0).toNat : Int) + d) :
    blockSum row block' = blockSum row block :=
  calc blockSum row block'
    _ = ∑ k ∈ Finset.range 64, (((block.getD k 0).toNat : Int) + d) * row.getD k 0 := by
      rw [blockSum_eq_sum]
      exact Finset.sum_congr rfl fun k hk => by rw [h k (Finset.mem_range.1 hk)]
    _ = blockSum row block + d * ∑ k ∈ Finset.range 64, (row.getD k 0 : Int) := by
      rw [Finset.mul_sum, blockSum_eq_sum, ← Finset.sum_add_distrib]
      exact Finset.sum_congr rfl fun k _ => add_mul _ _ _
    _ = blockSum row block := by rw [hrow, mul_zero, add_zero]

/-- A constant block is a uniform shift of the block of zeros. -/
theorem blockSum_replicate {row : List F32} (hrow : ∑ k ∈ Finset.range 64, (row.getD k 0 : Int) = 0) (v : Byte) :
    blockSum row (List.replicate 64 v) = 0 := by
  have hzero : blockSum row [] = 0 := by
    rw [blockSum_eq_sum]
    exact Finset.sum_eq_zero fun k _ => zero_mul _
  rw [← hzero]
  refine blockSum_of_shift (d := v.toNat) hrow fun k hk => ?_
  rw [List.getD_replicate _ hk]
  exact (zero_add _).symm

/-! ## EXTRACT with tables (R140) -/

theorem exec_extract_of_usable {s : State} {T : Tables} (hT : s.usableTables = some T) :
    exec .extract s = .next (done ((s.setTables (some T)).setResult
      (BitVec.ofNat 32 (extractPattern s.bits T.proj s.blk.toList)))) := by
  simp [exec, execExtract, ensureTables_of_usable hT]

/-! ## The accumulator (R143) -/

theorem exists_scaled {x : Int} {n p : Nat} (hdvd : (2 : Int) ^ n ∣ x) (hlt : |x| < 2 ^ p * 2 ^ n) :
    ∃ m : Int, x = m * 2 ^ n ∧ |m| < 2 ^ p := by
  obtain ⟨m, rfl⟩ := hdvd
  refine ⟨m, mul_comm _ _, ?_⟩
  rw [abs_mul, abs_of_pos (by positivity), mul_comm] at hlt
  exact lt_of_mul_lt_mul_right hlt (by positivity)

theorem sum_abs_projEntry_lt {b : Nat} (hb : b < 4) :
    255 * ∑ k ∈ Finset.range 64, |(projEntry b (k / 8) (k % 8) : Int)| < 10662 * 2 ^ 149 := by
  simp only [Int.abs_eq_natAbs]
  exact_mod_cast sum_natAbs_projEntry_lt hb

/-- Whatever is left out of a sum, its magnitude is at most 255 times the sum of all magnitudes. -/
theorem abs_partialSum_le (b : Nat) (block : List Byte) {A : Finset Nat} (hA : A ⊆ Finset.range 64) :
    |∑ k ∈ A, ((block.getD k 0).toNat : Int) * projEntry b (k / 8) (k % 8)| ≤
      255 * ∑ k ∈ Finset.range 64, |(projEntry b (k / 8) (k % 8) : Int)| :=
  calc |∑ k ∈ A, ((block.getD k 0).toNat : Int) * projEntry b (k / 8) (k % 8)|
    _ ≤ ∑ k ∈ A, |((block.getD k 0).toNat : Int) * projEntry b (k / 8) (k % 8)| := Finset.abs_sum_le_sum_abs _ _
    _ ≤ ∑ k ∈ A, 255 * |(projEntry b (k / 8) (k % 8) : Int)| := by
      refine Finset.sum_le_sum fun k _ => ?_
      have hbyte := (block.getD k 0).isLt
      rw [abs_mul, abs_of_nonneg (by positivity)]
      exact mul_le_mul_of_nonneg_right (by omega) (abs_nonneg _)
    _ ≤ ∑ k ∈ Finset.range 64, 255 * |(projEntry b (k / 8) (k % 8) : Int)| :=
      Finset.sum_le_sum_of_subset_of_nonneg hA fun k _ _ => by positivity
    _ = _ := (Finset.mul_sum _ _ _).symm

/-! ## The obligations -/

/-- Settles O19: bit `B−1−b` of the pattern is the comparison of the `b`-th sum with zero, and the pattern fits the
word because a legal build has at most 4 bits. -/
theorem extractThresholdsTheProjections : Obligations.ExtractThresholdsTheProjections := by
  intro s T hT hlegal
  have hbits : s.bits ≤ 4 := Build.bits_le_four hlegal
  refine ⟨BitVec.ofNat 32 (extractPattern s.bits T.proj s.blk.toList), exec_extract_of_usable hT,
    fun b hb => ?_, fun j hj => ?_⟩
  · rw [BitVec.getLsbD_ofNat, testBit_extractPattern_of_lt _ _ hb, decide_eq_true (show s.bits - 1 - b < 32 by omega),
      Bool.true_and, blockSum_eq_sum]
  · simp [BitVec.getLsbD_ofNat, testBit_extractPattern, hj.not_gt]

/-- Settles O20: zero is not above zero, and a constant block has zero sums because every row of a projection does. -/
theorem tiesExtractAsZero : Obligations.TiesExtractAsZero := by
  intro b hlegal
  have hconst := fun v i hi => blockSum_replicate (sum_projRow (i := i) hlegal hi) v
  refine ⟨fun block i hi hzero => ?_, fun v => ⟨hconst v, extractPattern_eq_zero (hconst v)⟩⟩
  rw [testBit_extractPattern_of_lt _ _ hi, hzero]
  rfl

/-- Settles O21: a uniform shift leaves every sum as it is. -/
theorem uniformShiftKeepsThePattern : Obligations.UniformShiftKeepsThePattern :=
  fun _ _ _ _ hlegal hshift => extractPattern_congr fun _ hi => blockSum_of_shift (sum_projRow hlegal hi) hshift

/-- Settles O22: entries and partial sums are multiples of `2^-28`, within the bound on the sum of magnitudes. -/
theorem extractorSumsFitTheAccumulator : Obligations.ExtractorSumsFitTheAccumulator := by
  intro b hb
  have hindex : ∀ k < 64, k / 8 < 8 ∧ k % 8 < 8 := fun k hk => by omega
  refine ⟨fun k hk => ?_, sum_abs_projEntry_lt hb, fun block A hA => ?_⟩
  · obtain ⟨hx, hy⟩ := hindex k hk
    refine exists_scaled (two_pow_dvd_projEntry b hx hy) ?_
    rw [Int.abs_eq_natAbs]
    exact_mod_cast natAbs_projEntry_lt hb hx hy
  · have hdvd : ∀ k ∈ A, (2 : Int) ^ 121 ∣ ((block.getD k 0).toNat : Int) * projEntry b (k / 8) (k % 8) := fun k hk =>
      have ⟨hx, hy⟩ := hindex k (Finset.mem_range.1 (hA hk))
      (two_pow_dvd_projEntry b hx hy).mul_left _
    refine exists_scaled (Finset.dvd_sum hdvd) ?_
    calc _ ≤ _ := abs_partialSum_le b block hA
      _ < 10662 * 2 ^ 149 := sum_abs_projEntry_lt hb
      _ ≤ 2 ^ 42 * 2 ^ 121 := by norm_num

end Sys2Proof.Machine
end

section
/-! `ENCF` and `DECF` with tables to be had (43_frame_codec.md): the checks in the order of R153, the failures and the
stores they lead to. -/

namespace Sys2Proof.Machine

/-! ## The checks (R153, R157) -/

@[simp] theorem frameCheck_setTables (wrongLen : Bool) (s : State) (v : Option Tables) :
    frameCheck wrongLen (s.setTables v) = frameCheck wrongLen s := rfl

theorem rangeFits_eq_false_iff {memSize p n : Nat} : rangeFits memSize p n = false ↔ 0 < n ∧ memSize < p + n := by
  simp [rangeFits, Nat.pos_iff_ne_zero]

theorem not_past_memSize {memSize p n : Nat} (h : n = 0 ∨ p + n ≤ memSize) : ¬(0 < n ∧ memSize < p + n) := by
  omega

theorem rangesMeet_iff {p n q m : Nat} :
    rangesMeet p n q m = true ↔ 0 < n ∧ 0 < m ∧ p < q + m ∧ q < p + n := by
  simp [rangesMeet, and_assoc]

theorem rangesMeet_of_apart {p n q m : Nat} (h : p + n ≤ q ∨ q + m ≤ p) : rangesMeet p n q m = false :=
  Bool.eq_false_iff.2 fun hmeet => by
    obtain ⟨-, -, hp, hq⟩ := rangesMeet_iff.1 hmeet
    omega

theorem Geometry.viewLegal_eq_false_iff {g : Geometry} :
    g.viewLegal = false ↔ g.width % 8 ≠ 0 ∨ g.height % 8 ≠ 0 ∨ g.stride < g.width := by
  simp only [viewLegal, Bool.and_eq_false_iff, decide_eq_false_iff_not, not_le, or_assoc]

/-- The checks as the rule writes their conditions. -/
theorem frameCheck_eq (wrongLen : Prop) [Decidable wrongLen] (s : State) :
    frameCheck (decide wrongLen) s =
      if s.geometry.width % 8 ≠ 0 ∨ s.geometry.height % 8 ≠ 0 ∨ s.geometry.stride < s.geometry.width then some .config
      else if wrongLen then some .bounds
      else if 0 < s.geometry.bytesPerFrame ∧ s.memSize < s.bufPtr + s.geometry.bytesPerFrame ∨
        0 < s.geometry.span ∧ s.memSize < s.fvPtr + s.geometry.span then some .addr
      else if 0 < s.geometry.bytesPerFrame ∧ 0 < s.geometry.span ∧ s.bufPtr < s.fvPtr + s.geometry.span ∧
        s.fvPtr < s.bufPtr + s.geometry.bytesPerFrame then some .overlap
      else none := by
  simp only [frameCheck, Bool.not_eq_true', Geometry.viewLegal_eq_false_iff, decide_eq_true_eq,
    rangeFits_eq_false_iff, rangesMeet_iff, ite_or]

/-- All the checks pass, in the words of the rule. -/
theorem frameCheck_passes {wrongLen : Prop} [Decidable wrongLen] {s : State} (hwidth : s.geometry.width % 8 = 0)
    (hheight : s.geometry.height % 8 = 0) (hstride : s.geometry.width ≤ s.geometry.stride) (hlen : ¬wrongLen)
    (hbuf : s.geometry.bytesPerFrame = 0 ∨ s.bufPtr + s.geometry.bytesPerFrame ≤ s.memSize)
    (hframe : s.geometry.span = 0 ∨ s.fvPtr + s.geometry.span ≤ s.memSize)
    (hapart : ¬(0 < s.geometry.bytesPerFrame ∧ 0 < s.geometry.span ∧ s.bufPtr < s.fvPtr + s.geometry.span ∧
      s.fvPtr < s.bufPtr + s.geometry.bytesPerFrame)) : frameCheck (decide wrongLen) s = none := by
  rw [frameCheck_eq, if_neg (by omega), if_neg hlen, if_neg (by omega), if_neg hapart]

/-- An accepted view has no row that runs into the next. -/
theorem width_le_stride_of_frameCheck {wrongLen : Bool} {s : State} (h : frameCheck wrongLen s = none) :
    s.geometry.width ≤ s.geometry.stride := by
  obtain ⟨hview, -⟩ := frameCheck_none.1 h
  simp only [Geometry.viewLegal, Bool.and_eq_true, decide_eq_true_eq] at hview
  exact hview.2

/-! ## How the commands end with tables to be had -/

section
variable {wrongLen : Bool} {storesOf : State → Tables → List Host.Cell} {s : State} {T : Tables} {code : ErrCode}

theorem framePlan_of_check_fails (hT : s.usableTables = some T) (h : frameCheck wrongLen s = some code) :
    framePlan wrongLen storesOf s = .error (fail code (s.setTables (some T))) := by
  simp [framePlan, ensureTables_of_usable hT, h]

theorem framePlan_of_checks_pass (hT : s.usableTables = some T) (h : frameCheck wrongLen s = none) :
    framePlan wrongLen storesOf s = .ok (s.setTables (some T), storesOf (s.setTables (some T)) T) := by
  simp [framePlan, ensureTables_of_usable hT, h]

theorem exec_encf_of_check_fails (hT : s.usableTables = some T)
    (h : frameCheck (decide (s.bufLen ≠ s.geometry.bytesPerFrame)) s = some code) :
    exec .encf s = .next (fail code (s.setTables (some T))) := by
  rw [exec, execEncf, encfPlan_eq, framePlan_of_check_fails hT h]

theorem exec_encf_of_checks_pass (hT : s.usableTables = some T)
    (h : frameCheck (decide (s.bufLen ≠ s.geometry.bytesPerFrame)) s = none) :
    exec .encf s = .next (done ((s.setTables (some T)).setMem (s.mem.storeAll (encfStores s T)))) := by
  rw [exec, execEncf, encfPlan_eq, framePlan_of_checks_pass hT h]
  rfl

theorem exec_decf_of_check_fails (hT : s.usableTables = some T)
    (h : frameCheck (decide (s.bufLen < s.geometry.bytesPerFrame)) s = some code) :
    exec .decf s = .next (fail code (s.setTables (some T))) := by
  rw [exec, execDecf, decfPlan_eq, framePlan_of_check_fails hT h]

theorem exec_decf_of_checks_pass (hT : s.usableTables = some T)
    (h : frameCheck (decide (s.bufLen < s.geometry.bytesPerFrame)) s = none) :
    exec .decf s = .next (done (((s.setTables (some T)).setMem (s.mem.storeAll (decfStores s T))).setResult
      (BitVec.ofNat 32 s.geometry.bytesPerFrame))) := by
  rw [exec, execDecf, decfPlan_eq, framePlan_of_checks_pass hT h]
  rfl

/-- An `ENCF` that succeeds has passed its checks. -/
theorem frameCheck_of_encf_succeeds {u : State} (hT : s.usableTables = some T) (h : exec .encf s = .next u)
    (hok : u.status.err = .ok) : frameCheck (decide (s.bufLen ≠ s.geometry.bytesPerFrame)) s = none := by
  cases hcheck : frameCheck (decide (s.bufLen ≠ s.geometry.bytesPerFrame)) s with
  | none => rfl
  | some code =>
    rw [exec_encf_of_check_fails hT hcheck] at h
    cases h
    obtain rfl : code = .ok := hok
    exact absurd hcheck frameCheck_ne_ok

end

/-! ## The obligations -/

/-- Settles O25: the checks as `frameCheck_eq` writes them, each with the ones before it passed. -/
theorem frameCommandsReportTheFirstCause : Obligations.FrameCommandsReportTheFirstCause := by
  classical
  rintro s T i wrongLen W H ST F P N span rfl rfl rfl rfl rfl rfl rfl hT hlen
  have hfail : ∀ code, frameCheck (decide wrongLen) s = some code →
      exec i s = .next (fail code (s.setTables (some T))) := fun code hcheck => by
    obtain ⟨rfl, hwrong⟩ | ⟨rfl, hwrong⟩ := hlen <;> rw [decide_eq_decide.2 hwrong] at hcheck
    · exact exec_encf_of_check_fails hT hcheck
    · exact exec_decf_of_check_fails hT hcheck
  have hcheck := frameCheck_eq wrongLen s
  refine ⟨fun hview => hfail _ (hcheck.trans (if_pos hview)), fun hwidth hheight hstride => ?_⟩
  have hview := hcheck.trans (if_neg (not_or.2 ⟨not_not.2 hwidth, not_or.2 ⟨not_not.2 hheight, hstride.not_gt⟩⟩))
  refine ⟨fun hwrong => hfail _ (hview.trans (if_pos hwrong)), fun hright => ?_⟩
  have haddr := hview.trans (if_neg hright)
  refine ⟨fun hout => hfail _ (haddr.trans (if_pos hout)), fun hbuf hframe hmeet => ?_⟩
  have hoverlap := haddr.trans (if_neg (not_or.2 ⟨not_past_memSize hbuf, not_past_memSize hframe⟩))
  exact hfail _ (hoverlap.trans (if_pos hmeet))

end Sys2Proof.Machine
end

section
/-! The stores of `ENCF` (43_frame_codec.md section 1): no two pixels of the blocks of a frame share an address, so each
holds what its store put there (R150 to R152). -/

namespace Sys2Proof.Machine

/-- If all stores to an address put one byte there, it reads as that byte. -/
theorem Memory.read_storeAll_of_agree {stores : List Host.Cell} {m : Memory} {a : Nat} {v : Byte} (hm : wf m = true)
    (h : (a, v) ∈ stores) (hagree : ∀ w, (a, w) ∈ stores → w = v) : read (storeAll stores m) a = v := by
  induction stores generalizing m with
  | nil => cases h
  | cons c stores ih =>
    by_cases hlater : (a, v) ∈ stores
    · exact ih (wf_write hm) hlater fun w hw => hagree w (List.mem_cons_of_mem _ hw)
    · obtain rfl : (a, v) = c := (List.mem_cons.1 h).resolve_right hlater
      refine (read_storeAll_of_not_mem (wf_write hm) ?_).trans (read_write_self hm)
      rintro ⟨b, w⟩ hw rfl
      exact hlater (hagree w (List.mem_cons_of_mem _ hw) ▸ hw)

/-- Quotient and remainder are unique. -/
theorem eq_and_eq_of_mul_add_eq {n a b a' b' : Nat} (hb : b < n) (hb' : b' < n) (h : a * n + b = a' * n + b') :
    a = a' ∧ b = b' := by
  have hn : 0 < n := by omega
  obtain ⟨hdiv, hmod⟩ := (Nat.div_mod_unique hn).2 ⟨show b + n * a = a * n + b by ring, hb⟩
  obtain ⟨hdiv', hmod'⟩ := (Nat.div_mod_unique hn).2 ⟨show b' + n * a' = a * n + b by rw [h]; ring, hb'⟩
  exact ⟨hdiv.symm.trans hdiv', hmod.symm.trans hmod'⟩

/-- Two pixels of blocks of the frame at one address are one pixel of one block, as no row runs into the next. -/
theorem State.tileAddr_injective {s : State} (hstride : s.geometry.width ≤ s.geometry.stride) {k k' x x' y y' : Nat}
    (hk : k < s.geometry.totalBlocks) (hk' : k' < s.geometry.totalBlocks) (hx : x < 8) (hx' : x' < 8) (hy : y < 8)
    (hy' : y' < 8) (h : tileAddr s.fvPtr s.geometry k x y = tileAddr s.fvPtr s.geometry k' x' y') :
    k = k' ∧ x = x' ∧ y = y' := by
  have hcol : ∀ j, j < s.geometry.totalBlocks → j % s.geometry.blocksPerRow < s.geometry.width / 8 := fun j hj =>
    Nat.mod_lt _ (Nat.pos_of_ne_zero fun h0 => by simp [s.geometry_totalBlocks, h0] at hj)
  have hcolk := hcol k hk
  have hcolk' := hcol k' hk'
  rw [tileAddr, tileAddr, pixelAddr, pixelAddr, Nat.add_assoc, Nat.add_assoc] at h
  obtain ⟨hrow, hpx⟩ := eq_and_eq_of_mul_add_eq (by omega) (by omega) (Nat.add_left_cancel h)
  refine ⟨?_, by omega, by omega⟩
  have hquot : k / s.geometry.blocksPerRow = k' / s.geometry.blocksPerRow := by omega
  have hrem : k % s.geometry.blocksPerRow = k' % s.geometry.blocksPerRow := by omega
  rw [← Nat.div_add_mod k s.geometry.blocksPerRow, hquot, hrem, Nat.div_add_mod]

/-- The pattern that sub-block `sub` of byte `i` of the payload carries (R151). -/
def State.payloadPattern (s : State) (i sub : Nat) : Nat :=
  subPattern s.bits s.geometry.blocksPerByte (s.mem.read (s.bufPtr + i)).toNat sub

section
variable {s : State} {T : Tables}

theorem mem_encfStores {a : Nat} {v : Byte} : (a, v) ∈ encfStores s T ↔
    ∃ i < s.geometry.bytesPerFrame, ∃ sub < s.geometry.blocksPerByte, ∃ x < 8, ∃ y < 8,
      tileAddr s.fvPtr s.geometry (i * s.geometry.blocksPerByte + sub) x y = a ∧
        T.patByte (s.payloadPattern i sub) (8 * x + y) = v := by
  simp [encfStores, tileStores, State.payloadPattern]

/-- Each pixel of the payload's blocks holds its byte of the pattern table. -/
theorem read_encf_tile (hm : s.mem.wf = true) (hstride : s.geometry.width ≤ s.geometry.stride) {i sub x y : Nat}
    (hi : i < s.geometry.bytesPerFrame) (hsub : sub < s.geometry.blocksPerByte) (hx : x < 8) (hy : y < 8) :
    (s.mem.storeAll (encfStores s T)).read
      (tileAddr s.fvPtr s.geometry (i * s.geometry.blocksPerByte + sub) x y) =
        T.patByte (s.payloadPattern i sub) (8 * x + y) := by
  refine Memory.read_storeAll_of_agree hm (mem_encfStores.2 ⟨i, hi, sub, hsub, x, hx, y, hy, rfl, rfl⟩) fun w hw => ?_
  obtain ⟨i', hi', sub', hsub', x', hx', y', hy', haddr, rfl⟩ := mem_encfStores.1 hw
  obtain ⟨hk, rfl, rfl⟩ := State.tileAddr_injective hstride (State.block_lt_totalBlocks hi' hsub')
    (State.block_lt_totalBlocks hi hsub) hx' hx hy' hy haddr
  obtain ⟨rfl, rfl⟩ := eq_and_eq_of_mul_add_eq hsub' hsub hk
  rfl

/-- A byte of `MEM` that is no such pixel is kept (R154). -/
theorem read_encf_of_no_pixel (hm : s.mem.wf = true) {a : Nat}
    (ha : ∀ i sub x y, i < s.geometry.bytesPerFrame → sub < s.geometry.blocksPerByte → x < 8 → y < 8 →
      a ≠ tileAddr s.fvPtr s.geometry (i * s.geometry.blocksPerByte + sub) x y) :
    (s.mem.storeAll (encfStores s T)).read a = s.mem.read a := by
  refine Memory.read_storeAll_of_not_mem hm ?_
  rintro ⟨b, v⟩ hc rfl
  obtain ⟨i, hi, sub, hsub, x, hx, y, hy, haddr, -⟩ := mem_encfStores.1 hc
  exact ha i sub x y hi hsub hx hy haddr.symm

end

/-! ## The obligations -/

/-- Settles O23, pixel by pixel. -/
theorem encfWritesTheTilesOfThePayload : Obligations.EncfWritesTheTilesOfThePayload := by
  rintro s T W H ST F P B BPR BPB N span rfl rfl rfl rfl rfl rfl rfl rfl rfl rfl hm hT hwidth hheight hstride hlen hbuf
    hframe hapart
  have hcheck : frameCheck (decide (s.bufLen ≠ s.geometry.bytesPerFrame)) s = none :=
    frameCheck_passes hwidth hheight hstride (not_not.2 hlen) hbuf hframe hapart
  exact ⟨_, exec_encf_of_checks_pass hT hcheck, fun _ _ _ _ hi hsub hx hy => read_encf_tile hm hstride hi hsub hx hy,
    fun _ ha => read_encf_of_no_pixel hm ha⟩

end Sys2Proof.Machine
end

section
/-! The bytes of `DECF` (43_frame_codec.md section 3): how patterns are packed into a byte, what a byte depends on, and
that it is the byte `ENCF` cut into patterns (R155, R156, R158, R159). -/

namespace Sys2Proof.Machine

/-! ## Patterns packed into a number (R151, R156) -/

/-- `byte = (byte << B) | f(s)` over the first `n` sub-blocks `s`, from 0. -/
def packPatterns (B n : Nat) (f : Nat → Nat) : Nat :=
  (List.range n).foldl (fun byte sub => (byte <<< B) ||| f sub) 0

theorem decodeByte_eq (B : Nat) (proj : List (List F32)) (m : Memory) (fvPtr : Nat) (g : Geometry) (i : Nat) :
    decodeByte B proj m fvPtr g i = BitVec.ofNat 8 (packPatterns B g.blocksPerByte fun sub =>
      extractPattern B proj (readTile m fvPtr g (i * g.blocksPerByte + sub))) := rfl

section
variable {B n : Nat} {f g : Nat → Nat}

theorem packPatterns_succ : packPatterns B (n + 1) f = (packPatterns B n f <<< B) ||| f n := by
  simp [packPatterns, List.range_succ]

theorem packPatterns_congr (h : ∀ sub < n, f sub = g sub) : packPatterns B n f = packPatterns B n g :=
  List.foldl_ext _ _ _ fun _ sub hsub => by rw [h sub (List.mem_range.1 hsub)]

/-- The patterns do not overlap, so they add up. -/
theorem packPatterns_succ_eq_add (hf : f n < 2 ^ B) :
    packPatterns B (n + 1) f = packPatterns B n f * 2 ^ B + f n := by
  rw [packPatterns_succ, ← Nat.shiftLeft_add_eq_or_of_lt hf, Nat.shiftLeft_eq]

/-- Each pattern stands at its own power of `2^B`, the first one at the highest. -/
theorem packPatterns_eq_sum (hf : ∀ sub, f sub < 2 ^ B) :
    packPatterns B n f = ∑ sub ∈ Finset.range n, f sub * 2 ^ (B * (n - 1 - sub)) := by
  induction n with
  | zero => rfl
  | succ n ih =>
    rw [packPatterns_succ_eq_add (hf n), ih, Finset.sum_range_succ, Finset.sum_mul]
    congr 1
    · refine Finset.sum_congr rfl fun sub hsub => ?_
      have hsub := Finset.mem_range.1 hsub
      rw [mul_assoc, ← pow_add, ← Nat.mul_succ, show (n - 1 - sub).succ = n + 1 - 1 - sub by omega]
    · simp

theorem packPatterns_lt (hf : ∀ sub, f sub < 2 ^ B) : packPatterns B n f < 2 ^ (B * n) := by
  induction n with
  | zero => simp [packPatterns]
  | succ n ih =>
    rw [packPatterns_succ_eq_add (hf n)]
    calc packPatterns B n f * 2 ^ B + f n < (packPatterns B n f + 1) * 2 ^ B := by
          rw [Nat.succ_mul]
          exact Nat.add_lt_add_left (hf n) _
      _ ≤ 2 ^ (B * n) * 2 ^ B := Nat.mul_le_mul_right _ ih
      _ = 2 ^ (B * (n + 1)) := by rw [← pow_add, Nat.mul_succ]

/-- The first `n` patterns of a number, packed, are its high bits. -/
theorem packPatterns_subPattern_eq_shiftRight {bpb d : Nat} (hd : d < 2 ^ (B * bpb)) (hn : n ≤ bpb) :
    packPatterns B n (subPattern B bpb d) = d >>> (B * (bpb - n)) := by
  induction n with
  | zero => exact (Nat.shiftRight_eq_zero d _ hd).symm
  | succ n ih =>
    have hshift : B * (bpb - n) = B * (bpb - 1 - n) + B := by
      rw [← Nat.mul_succ, show (bpb - 1 - n).succ = bpb - n by omega]
    have hlow : subPattern B bpb d n = d >>> (B * (bpb - 1 - n)) % 2 ^ B := Nat.and_two_pow_sub_one_eq_mod _ _
    rw [packPatterns_succ_eq_add (hlow ▸ Nat.mod_lt _ (by positivity)), ih (by omega), hlow, hshift,
      Nat.shiftRight_add, Nat.shiftRight_eq_div_pow _ B, Nat.div_add_mod', show bpb - 1 - n = bpb - (n + 1) by omega]

/-- Cutting into patterns is undone by packing them (R151, R156). -/
theorem packPatterns_subPattern {bpb d : Nat} (hd : d < 2 ^ (B * bpb)) :
    packPatterns B bpb (subPattern B bpb d) = d := by
  rw [packPatterns_subPattern_eq_shiftRight hd le_rfl, Nat.sub_self]
  rfl

end

/-- On a legal build the patterns of a byte fill it (R5, R6). -/
theorem State.bits_mul_blocksPerByte {s : State} (h : s.build.legal = true) : s.bits * s.geometry.blocksPerByte = 8 := by
  obtain ⟨hB, -⟩ := Bool.and_eq_true_iff.1 h
  have hbits : s.bits = 1 ∨ s.bits = 2 ∨ s.bits = 4 := legalB_iff.1 hB
  have hbpb : s.geometry.blocksPerByte = 8 / s.bits := rfl
  rw [hbpb]
  obtain hb | hb | hb := hbits <;> rw [hb]

/-- A pattern has `B` bits (R141). -/
theorem extractPattern_lt (B : Nat) (proj : List (List F32)) (block : List Byte) :
    extractPattern B proj block < 2 ^ B := by
  refine Nat.lt_pow_two_of_testBit _ fun j hj => ?_
  simp [testBit_extractPattern, Nat.not_lt.2 hj]

/-! ## What a byte depends on (R155, R158) -/

theorem getD_readTile (m : Memory) (fvPtr : Nat) (g : Geometry) (k : Nat) {j : Nat} (hj : j < 64) :
    (readTile m fvPtr g k).getD j 0 = m.read (tileAddr fvPtr g k (j / 8) (j % 8)) := by
  simp [readTile, List.getD, hj]

theorem blockSum_congr {row : List F32} {block block' : List Byte}
    (h : ∀ k < 64, block.getD k 0 = block'.getD k 0) : blockSum row block = blockSum row block' := by
  rw [blockSum_eq_sum, blockSum_eq_sum]
  exact Finset.sum_congr rfl fun k hk => by rw [h k (Finset.mem_range.1 hk)]

/-- The memory holds the frame as the state does. -/
def State.SameFrame (s : State) (m : Memory) : Prop :=
  ∀ a, s.fvPtr ≤ a → a < s.fvPtr + s.geometry.span → m.read a = s.mem.read a

section
variable {s : State} {m : Memory} {T : Tables}

/-- A byte depends on the frame only. -/
theorem State.SameFrame.decodeByte_eq (h : s.SameFrame m) {i : Nat} (hi : i < s.geometry.bytesPerFrame) :
    decodeByte s.bits T.proj m s.fvPtr s.geometry i = decodeByte s.bits T.proj s.mem s.fvPtr s.geometry i := by
  refine congrArg (BitVec.ofNat 8) (packPatterns_congr fun sub hsub => extractPattern_congr fun b _ =>
    blockSum_congr fun j hj => ?_)
  obtain ⟨hlo, hhi⟩ := State.tileAddr_mem_span (State.block_lt_totalBlocks hi hsub)
    (show j / 8 < 8 by omega) (show j % 8 < 8 by omega)
  rw [getD_readTile _ _ _ _ hj, getD_readTile _ _ _ _ hj, h _ hlo hhi]

/-- The buffer and the frame passed the check of R56, so a store to the buffer leaves the frame as it is. -/
theorem State.SameFrame.write (h : s.SameFrame m) (hm : m.wf = true) {i : Nat} (hi : i < s.geometry.bytesPerFrame)
    (happart : rangesMeet s.bufPtr s.geometry.bytesPerFrame s.fvPtr s.geometry.span = false) (v : Byte) :
    s.SameFrame (m.write (s.bufPtr + i) v) := by
  intro a hlo hhi
  have hne : a ≠ s.bufPtr + i := by
    rintro rfl
    exact Bool.eq_false_iff.1 happart (rangesMeet_iff.2 (by omega))
  rw [Memory.read_write hm, if_neg hne, h a hlo hhi]

/-- A loop of stores to the buffer may read the frame from `MEM` as it goes (R158). -/
theorem State.SameFrame.foldl_write {byteOf : Memory → Nat → Byte}
    (hbyte : ∀ m, s.SameFrame m → ∀ i < s.geometry.bytesPerFrame, byteOf m i = byteOf s.mem i)
    (hapart : rangesMeet s.bufPtr s.geometry.bytesPerFrame s.fvPtr s.geometry.span = false) {l : List Nat}
    (hl : ∀ i ∈ l, i < s.geometry.bytesPerFrame) (h : s.SameFrame m) (hm : m.wf = true) :
    l.foldl (fun m i => m.write (s.bufPtr + i) (byteOf s.mem i)) m =
      l.foldl (fun m i => m.write (s.bufPtr + i) (byteOf m i)) m := by
  induction l generalizing m with
  | nil => rfl
  | cons i l ih =>
    have hi := hl i List.mem_cons_self
    rw [List.foldl_cons, List.foldl_cons, hbyte m h i hi]
    exact ih (fun j hj => hl j (List.mem_cons_of_mem _ hj)) (h.write hm hi hapart _) (Memory.wf_write hm)

/-! ## MEM after the stores (R155) -/

theorem storeAll_decfStores : m.storeAll (decfStores s T) = (List.range s.geometry.bytesPerFrame).foldl
    (fun m i => m.write (s.bufPtr + i) (decodeByte s.bits T.proj s.mem s.fvPtr s.geometry i)) m := List.foldl_map

theorem mem_decfStores {a : Nat} {v : Byte} : (a, v) ∈ decfStores s T ↔
    ∃ i < s.geometry.bytesPerFrame, s.bufPtr + i = a ∧
      decodeByte s.bits T.proj s.mem s.fvPtr s.geometry i = v := by
  simp [decfStores]

theorem read_decf_buffer (hm : s.mem.wf = true) {i : Nat} (hi : i < s.geometry.bytesPerFrame) :
    (s.mem.storeAll (decfStores s T)).read (s.bufPtr + i) =
      decodeByte s.bits T.proj s.mem s.fvPtr s.geometry i := by
  refine Memory.read_storeAll_of_agree hm (mem_decfStores.2 ⟨i, hi, rfl, rfl⟩) fun w hw => ?_
  obtain ⟨i', -, haddr, rfl⟩ := mem_decfStores.1 hw
  rw [Nat.add_left_cancel haddr]

theorem read_decf_of_outside (hm : s.mem.wf = true) {a : Nat}
    (ha : a < s.bufPtr ∨ s.bufPtr + s.geometry.bytesPerFrame ≤ a) :
    (s.mem.storeAll (decfStores s T)).read a = s.mem.read a := by
  refine Memory.read_storeAll_of_not_mem hm ?_
  rintro ⟨b, v⟩ hc rfl
  obtain ⟨i, hi, haddr, -⟩ := mem_decfStores.1 hc
  omega

/-! ## The round trip (R159) -/

/-- If single blocks round-trip, so does every byte of the payload. -/
theorem decodeByte_encf (hm : s.mem.wf = true) (hlegal : s.build.legal = true)
    (hstride : s.geometry.width ≤ s.geometry.stride)
    (hround : ∀ p < 2 ^ s.bits, extractPattern s.bits T.proj (T.pat.getD p []) = p) {i : Nat}
    (hi : i < s.geometry.bytesPerFrame) :
    decodeByte s.bits T.proj (s.mem.storeAll (encfStores s T)) s.fvPtr s.geometry i = s.mem.read (s.bufPtr + i) := by
  have hpattern : ∀ sub < s.geometry.blocksPerByte, extractPattern s.bits T.proj (readTile
      (s.mem.storeAll (encfStores s T)) s.fvPtr s.geometry (i * s.geometry.blocksPerByte + sub)) =
        s.payloadPattern i sub := fun sub hsub => by
    have hlt : s.payloadPattern i sub < 2 ^ s.bits := Nat.and_lt_two_pow _ (by simp)
    refine (extractPattern_congr fun b _ => blockSum_congr fun j hj => ?_).trans (hround _ hlt)
    rw [getD_readTile _ _ _ _ hj, read_encf_tile hm hstride hi hsub (by omega) (by omega), Nat.div_add_mod]
    rfl
  have hbyte : (s.mem.read (s.bufPtr + i)).toNat < 2 ^ (s.bits * s.geometry.blocksPerByte) := by
    rw [State.bits_mul_blocksPerByte hlegal]
    exact (s.mem.read (s.bufPtr + i)).isLt
  rw [decodeByte_eq, packPatterns_congr hpattern]
  refine (congrArg _ (packPatterns_subPattern hbyte)).trans ?_
  rw [BitVec.ofNat_toNat, BitVec.setWidth_eq]

end

/-- `N` fits `RESULT` whenever a buffer has room for `N` bytes. -/
theorem toNat_ofNat_of_le_toNat {n : Nat} {len : Word} (h : n ≤ len.toNat) : (BitVec.ofNat 32 n).toNat = n := by
  rw [BitVec.toNat_ofNat, Nat.mod_eq_of_lt (h.trans_lt len.isLt)]

/-- The states look at one frame: the same view of it, on the same build. -/
structure State.SameView (s w : State) : Prop where
  build    : w.build = s.build
  geometry : w.geometry = s.geometry
  fvPtr    : w.fvPtr = s.fvPtr

/-- `DECF` after an `ENCF` whose checks passed, with a buffer of its own (R159). -/
theorem exec_decf_of_sameView {s w : State} {T : Tables} (hsame : s.SameView w)
    (hmem : w.mem = s.mem.storeAll (encfStores s T)) (htables : w.tables = some T) (hm : s.mem.wf = true)
    (hlegal : s.build.legal = true)
    (hround : ∀ p < 2 ^ s.bits, extractPattern s.bits T.proj (T.pat.getD p []) = p)
    (hcheck : frameCheck (decide (s.bufLen ≠ s.geometry.bytesPerFrame)) s = none)
    (hlen : s.bufLen ≤ w.bufLen) (hbuf : w.bufPtr + s.bufLen ≤ s.memSize)
    (hapart : w.bufPtr + s.bufLen ≤ s.fvPtr ∨ s.fvPtr + s.geometry.span ≤ w.bufPtr) :
    ∃ v, exec .decf w = .next v ∧ v.status.err = .ok ∧ v.result.toNat = s.bufLen ∧
      ∀ i < s.bufLen, v.mem.read (w.bufPtr + i) = s.mem.read (s.bufPtr + i) := by
  obtain ⟨hbuild, hgeometry, hfvPtr⟩ := hsame
  obtain ⟨hview, hwrong, -, hframe, -⟩ := frameCheck_none.1 hcheck
  have hbits : w.bits = s.bits := congrArg Build.bits hbuild
  have hmemSize : w.memSize = s.memSize := congrArg Build.memSize hbuild
  have hN : s.bufLen = s.geometry.bytesPerFrame := not_not.1 (of_decide_eq_false hwrong)
  rw [hN] at hlen hbuf hapart ⊢
  have hfits : rangeFits s.memSize w.bufPtr s.geometry.bytesPerFrame = true := by simp [rangeFits, hbuf]
  have hdecf : frameCheck (decide (w.bufLen < w.geometry.bytesPerFrame)) w = none := by
    rw [frameCheck_none, hgeometry, hmemSize, hfvPtr]
    exact ⟨hview, decide_eq_false hlen.not_gt, hfits, hframe, rangesMeet_of_apart hapart⟩
  refine ⟨_, exec_decf_of_checks_pass (usableTables_of_tables htables) hdecf, rfl, ?_, fun i hi => ?_⟩
  · rw [hgeometry]
    exact toNat_ofNat_of_le_toNat hlen
  · refine (read_decf_buffer (hmem ▸ Memory.wf_storeAll hm) (hgeometry ▸ hi)).trans ?_
    rw [hgeometry, hfvPtr, hbits, hmem]
    exact decodeByte_encf hm hlegal (width_le_stride_of_frameCheck hcheck) hround hi

/-! ## The obligations -/

/-- Settles O24: the patterns of a byte add up to less than 256, so the byte holds their sum. -/
theorem decfRecoversTheBytesOfTheFrame : Obligations.DecfRecoversTheBytesOfTheFrame := by
  rintro s T W H ST F P B BPR BPB N span rfl rfl rfl rfl rfl rfl rfl rfl rfl rfl hm hT hlegal hwidth hheight hstride hlen
    hbuf hframe hapart
  have hcheck : frameCheck (decide (s.bufLen < s.geometry.bytesPerFrame)) s = none :=
    frameCheck_passes hwidth hheight hstride hlen.not_gt hbuf hframe hapart
  refine ⟨_, _, exec_decf_of_checks_pass hT hcheck, toNat_ofNat_of_le_toNat hlen, fun i hi => ?_,
    fun a ha => read_decf_of_outside hm ha⟩
  refine (congrArg BitVec.toNat (read_decf_buffer hm hi)).trans ?_
  have hlt := fun sub => extractPattern_lt s.bits T.proj
    (readTile s.mem s.fvPtr s.geometry (i * s.geometry.blocksPerByte + sub))
  have hbyte := packPatterns_lt (n := s.geometry.blocksPerByte) hlt
  rw [State.bits_mul_blocksPerByte hlegal] at hbyte
  rw [decodeByte_eq, BitVec.toNat_ofNat, Nat.mod_eq_of_lt hbyte]
  exact packPatterns_eq_sum hlt

/-- Settles O26: `DECF` sees the frame `ENCF` left, and its checks pass. -/
theorem decfGivesBackWhatEncfWrote : Obligations.DecfGivesBackWhatEncfWrote := by
  rintro s u T q len N span hm hlegal hT hround hexec hok rfl rfl hlen hbuf hapart
  have hcheck := frameCheck_of_encf_succeeds hT hexec hok
  rw [exec_encf_of_checks_pass hT hcheck] at hexec
  cases hexec
  exact exec_decf_of_sameView ⟨rfl, rfl, rfl⟩ rfl rfl hm hlegal hround hcheck hlen hbuf hapart

/-- Settles O27: the stores leave the frame as it is. -/
theorem decfEqualsTheSequentialLoop : Obligations.DecfEqualsTheSequentialLoop := by
  intro s s' stores hm hplan T hT
  obtain ⟨T', hT', rfl, rfl, hcheck⟩ := framePlan_ok hplan
  obtain rfl : T' = T := Option.some.inj (hT'.symm.trans hT)
  obtain ⟨-, -, -, -, hapart⟩ := frameCheck_none.1 hcheck
  have hstart : s.SameFrame s.mem := fun _ _ _ => rfl
  exact storeAll_decfStores.trans (hstart.foldl_write
    (byteOf := fun m i => decodeByte s.bits T'.proj m s.fvPtr s.geometry i)
    (fun _ hsame _ hi => hsame.decodeByte_eq hi) hapart (fun _ => List.mem_range.1) hm)

end Sys2Proof.Machine
end

section
/-! SHA-256 (44_sha256.md): how the command `SHA256` ends (R170), the padding of a message (R172), and the message
schedule of a block (R175). -/

namespace Sys2Proof.Machine

/-! ## The command (R170, R55) -/

section
variable {s : State}

theorem bufFits_iff : s.bufFits = true ↔ s.bufLen = 0 ∨ s.bufPtr + s.bufLen ≤ s.memSize := by
  simp [State.bufFits, rangeFits]

theorem exec_sha256_of_bufFits (h : s.bufFits = true) :
    exec .sha256 s = .next (done (s.setDigest (sha256Words s.bufBytes).toVector)) := if_pos h

theorem exec_sha256_of_not_bufFits (h : ¬ s.bufFits = true) : exec .sha256 s = .next (fail .addr s) := if_neg h

end

/-! ## The padding (R172) -/

/-- The number a byte string stands for, its first byte the most significant. -/
def bigEndianValue (bytes : List Byte) : Nat := bytes.foldl (fun v d => 256 * v + d.toNat) 0

theorem bigEndianValue_concat (bytes : List Byte) (d : Byte) :
    bigEndianValue (bytes ++ [d]) = 256 * bigEndianValue bytes + d.toNat := by
  simp [bigEndianValue]

theorem length_be64 (v : Nat) : (be64 v).length = 8 := by simp [be64]

/-- The first `n` bytes of the length field are the `8·n` high bits of a 64-bit number. -/
theorem bigEndianValue_take_be64 {v n : Nat} (hv : v < 2 ^ 64) (hn : n ≤ 8) :
    bigEndianValue ((be64 v).take n) = v >>> (64 - 8 * n) := by
  induction n with
  | zero => exact (Nat.shiftRight_eq_zero v _ hv).symm
  | succ n ih =>
    have hnext : (be64 v)[n]? = some (BitVec.ofNat 8 (v >>> (56 - 8 * n))) := by
      simp [be64, show n < 8 by omega]
    have hshift : 64 - 8 * n = 56 - 8 * n + 8 := by omega
    rw [List.take_add_one, hnext, Option.toList_some, bigEndianValue_concat, ih (by omega), hshift, Nat.shiftRight_add,
      Nat.shiftRight_eq_div_pow _ 8, BitVec.toNat_ofNat, Nat.div_add_mod, show 56 - 8 * n = 64 - 8 * (n + 1) by omega]

theorem bigEndianValue_be64 {v : Nat} (hv : v < 2 ^ 64) : bigEndianValue (be64 v) = v := by
  simpa [List.take_of_length_le (length_be64 v).le] using bigEndianValue_take_be64 hv le_rfl

/-- The zero bytes fill the last block. -/
theorem add_shaZeros_mod (len : Nat) : (len + 1 + shaZeros len + 8) % 64 = 0 := by
  unfold shaZeros
  omega

theorem shaZeros_lt (len : Nat) : shaZeros len < 64 := Nat.mod_lt _ (by decide)

theorem length_shaPad (msg : List Byte) : (shaPad msg).length = msg.length + 1 + shaZeros msg.length + 8 := by
  simp only [shaPad, List.length_append, List.length_cons, List.length_replicate, length_be64]
  omega

/-- Fewer than 64 zero bytes complete the block that the nine other bytes of the padding end in. -/
theorem length_shaPad_eq_blocks (msg : List Byte) : (shaPad msg).length = 64 * ((msg.length + 8) / 64 + 1) := by
  have hmod := add_shaZeros_mod msg.length
  have hlt := shaZeros_lt msg.length
  rw [length_shaPad]
  omega

/-! ## The message schedule (R175) -/

theorem getD_shaBlockWords (block : List Byte) {t : Nat} (ht : t < 16) :
    (shaBlockWords block).getD t 0 =
      block.getD (4 * t) 0 ++ block.getD (4 * t + 1) 0 ++ block.getD (4 * t + 2) 0 ++ block.getD (4 * t + 3) 0 := by
  simp [shaBlockWords, be32, List.getD, ht]

/-- The newest word is made from the others. -/
theorem shaExtend_succ (n : Nat) (ws : List Word) :
    shaExtend (n + 1) ws = shaNextWord (shaExtend n ws) :: shaExtend n ws := by
  induction n generalizing ws with
  | zero => rfl
  | succ n ih => exact ih (shaNextWord ws :: ws)

theorem length_shaExtend (n : Nat) (ws : List Word) : (shaExtend n ws).length = n + ws.length := by
  induction n with
  | zero => simp [shaExtend]
  | succ n ih =>
    rw [shaExtend_succ, List.length_cons, ih]
    omega

/-- Without its `k` newest words, the schedule is what it was `k` words ago. -/
theorem drop_shaExtend (k n : Nat) (ws : List Word) : (shaExtend (n + k) ws).drop k = shaExtend n ws := by
  induction k with
  | zero => rfl
  | succ k ih => rw [← Nat.add_assoc, shaExtend_succ, List.drop_succ_cons, ih]

theorem getD_shaExtend (k n i : Nat) (ws : List Word) :
    (shaExtend (n + k) ws).getD (k + i) 0 = (shaExtend n ws).getD i 0 := by
  rw [← drop_shaExtend k n ws]
  simp [List.getD]

/-- Each word that was added is made from the words before it. -/
theorem getD_shaExtend_recurrence (k n : Nat) (ws : List Word) :
    (shaExtend (n + 1 + k) ws).getD k 0 =
      shaSmallSigma1 ((shaExtend (n + 1 + k) ws).getD (k + 2) 0) + (shaExtend (n + 1 + k) ws).getD (k + 7) 0
        + shaSmallSigma0 ((shaExtend (n + 1 + k) ws).getD (k + 15) 0)
        + (shaExtend (n + 1 + k) ws).getD (k + 16) 0 := by
  have hnewest : (shaExtend (n + 1 + k) ws).getD k 0 = (shaExtend (n + 1) ws).getD 0 0 :=
    getD_shaExtend k (n + 1) 0 ws
  simp only [hnewest, getD_shaExtend, shaExtend_succ]
  rfl

theorem length_shaBlockWords (block : List Byte) : (shaBlockWords block).length = 16 := by simp [shaBlockWords]

theorem length_shaSchedule (block : List Byte) : (shaSchedule block).length = 64 := by
  simp [shaSchedule, length_shaExtend, length_shaBlockWords]

/-- `Wt[t - j]` in the order of `shaExtend`, where the newest word is the first. -/
theorem getD_shaSchedule_sub (block : List Byte) {t j : Nat} (hj : j ≤ t) (ht : t < 64) :
    (shaSchedule block).getD (t - j) 0 = (shaExtend 48 (shaBlockWords block).reverse).getD (63 - t + j) 0 := by
  have hlength : (shaExtend 48 (shaBlockWords block).reverse).length = 64 := by
    simp [length_shaExtend, length_shaBlockWords]
  rw [shaSchedule, List.getD_reverse _ (by omega), hlength, show 64 - 1 - (t - j) = 63 - t + j by omega]

theorem getD_shaSchedule_of_lt (block : List Byte) {t : Nat} (ht : t < 16) :
    (shaSchedule block).getD t 0 = (shaBlockWords block).getD t 0 := by
  have hlength := length_shaBlockWords block
  calc (shaSchedule block).getD t 0
      = (shaExtend (0 + 48) (shaBlockWords block).reverse).getD (63 - t) 0 :=
        getD_shaSchedule_sub block t.zero_le (by omega)
    _ = (shaBlockWords block).reverse.getD (15 - t) 0 := by
        rw [show 63 - t = 48 + (15 - t) by omega, getD_shaExtend, shaExtend]
    _ = (shaBlockWords block).getD t 0 := by
        rw [List.getD_reverse _ (by omega), hlength, show 16 - 1 - (15 - t) = t by omega]

theorem getD_shaSchedule_recurrence (block : List Byte) {t : Nat} (h16 : 16 ≤ t) (ht : t < 64) :
    (shaSchedule block).getD t 0 =
      shaSmallSigma1 ((shaSchedule block).getD (t - 2) 0) + (shaSchedule block).getD (t - 7) 0
        + shaSmallSigma0 ((shaSchedule block).getD (t - 15) 0) + (shaSchedule block).getD (t - 16) 0 := by
  have hword := fun j (hj : j ≤ 16) => getD_shaSchedule_sub block (hj.trans h16) ht
  have hsteps : t - 16 + 1 + (63 - t) = 48 := by omega
  have hrec := getD_shaExtend_recurrence (63 - t) (t - 16) (shaBlockWords block).reverse
  rw [hsteps] at hrec
  rw [hword 2 (by decide), hword 7 (by decide), hword 15 (by decide), hword 16 (by decide)]
  exact (hword 0 (by decide)).trans hrec

/-! ## The obligations -/

/-- Settles O28: the only check is that of R55 on the byte buffer. -/
theorem shaWritesTheDigestOfTheBuffer : Obligations.ShaWritesTheDigestOfTheBuffer := by
  rintro s P L rfl rfl
  refine ⟨fun hfits => exec_sha256_of_bufFits (bufFits_iff.2 hfits), fun hpast => exec_sha256_of_not_bufFits ?_⟩
  exact Bool.eq_false_iff.1 (rangeFits_eq_false_iff.2 hpast)

/-- Settles O29: `z` is `shaZeros`, and the bytes of the length field are taken back into its number one by one. -/
theorem shaPaddingIsTheRule : Obligations.ShaPaddingIsTheRule := fun msg =>
  ⟨shaZeros msg.length, be64 (8 * msg.length), by simp [shaPad], length_be64 _, shaZeros_lt _, add_shaZeros_mod _,
    length_shaPad_eq_blocks msg, bigEndianValue_be64⟩

/-- Settles O30: taking the newest words away leaves the schedule as it was when the word before them was made. -/
theorem shaScheduleIsTheRecurrence : Obligations.ShaScheduleIsTheRecurrence := fun block _ =>
  ⟨length_shaSchedule block, fun _ ht => (getD_shaSchedule_of_lt block ht).trans (getD_shaBlockWords block ht),
    fun _ => getD_shaSchedule_recurrence block⟩

end Sys2Proof.Machine
end

section
/-! The CRC (45_crc32.md): the shift register (R190), the packet with its checksum field (R193, R195), and how `CRC32`,
`PKTCRC` and `PKTVFY` end (R192, R194, R196). -/

namespace Sys2Proof.Machine

/-! ## The shift register (R190) -/

/-- One bit enters the register: the polynomial is taken in if the bit differs from the one that goes out. -/
def crcBit (r : Word) (bit : Bool) : Word := if r.getLsbD 31 != bit then (r <<< 1) ^^^ crcPoly else r <<< 1

/-- A change of the register before a shift enters as its bit 31; the rest of it is shifted along. -/
theorem crcShift_xor (r y : Word) : crcShift (r ^^^ y) = crcBit r (y.getLsbD 31) ^^^ (y <<< 1) := by
  simp only [crcShift, crcBit, BitVec.getLsbD_xor, BitVec.shiftLeft_xor_distrib, bne]
  split
  · ac_rfl
  · rfl

theorem crcShifts_eq_iterate (n : Nat) (r : Word) : crcShifts n r = crcShift^[n] r := by
  induction n generalizing r with
  | zero => rfl
  | succ n ih => exact ih (crcShift r)

/-- Shifting after `y` has been exclusive-ored in is letting the bits of `y` in one by one. -/
theorem crcShifts_xor (n : Nat) (r y : Word) : crcShifts n (r ^^^ y) =
    ((List.range n).map fun i => (y <<< i).getLsbD 31).foldl crcBit r ^^^ (y <<< n) := by
  simp only [crcShifts_eq_iterate]
  induction n with
  | zero => simp
  | succ n ih =>
    rw [Function.iterate_succ_apply', ih, crcShift_xor, ← BitVec.shiftLeft_add, List.range_succ]
    simp

/-- Byte-wise and bit-serial are the same: the register takes the bits of a byte, most significant first. -/
theorem crcByte_eq_foldl (r : Word) (d : Byte) :
    crcByte r d = ((List.range 8).map fun i => d.getLsbD (7 - i)).foldl crcBit r := by
  have hgone : d.zeroExtend 32 <<< 24 <<< 8 = 0#32 := by
    rw [← BitVec.shiftLeft_add]
    exact BitVec.shiftLeft_eq_zero (by decide)
  have hbits : ((List.range 8).map fun i => (d.zeroExtend 32 <<< 24 <<< i).getLsbD 31) =
      (List.range 8).map fun i => d.getLsbD (7 - i) := List.map_congr_left fun i hi => by
    have hi : i < 8 := List.mem_range.1 hi
    interval_cases i <;> simp
  rw [crcByte, crcShifts_xor, hbits, hgone]
  exact BitVec.xor_zero

/-- The bit that goes out comes back as bit 0, where the polynomial has a one. -/
theorem getLsbD_crcShift_zero (r : Word) : (crcShift r).getLsbD 0 = r.getLsbD 31 := by
  by_cases hout : r.getLsbD 31 = true
  · rw [crcShift, if_pos hout, hout]
    simp [crcPoly]
  · rw [crcShift, if_neg hout, Bool.eq_false_iff.2 hout]
    simp

theorem crcShift_injective : Function.Injective crcShift := by
  intro r r' h
  have hout : r.getLsbD 31 = r'.getLsbD 31 := by
    rw [← getLsbD_crcShift_zero, ← getLsbD_crcShift_zero, h]
  have hkept : r <<< 1 = r' <<< 1 := by
    simp only [crcShift, hout] at h
    split at h
    · exact (BitVec.xor_left_inj _).1 h
    · exact h
  refine BitVec.eq_of_getLsbD_eq fun i hi => ?_
  obtain rfl | hlt : i = 31 ∨ i + 1 < 32 := by omega
  · exact hout
  · simpa [hlt, -BitVec.getLsbD_eq_getElem] using congrArg (fun y => y.getLsbD (i + 1)) hkept

theorem crcByte_left_injective (d : Byte) : Function.Injective (crcByte · d) := by
  intro r r' h
  simp only [crcByte, crcShifts_eq_iterate] at h
  exact (BitVec.xor_left_inj _).1 (crcShift_injective.iterate 8 h)

theorem crcByte_right_injective (r : Word) : Function.Injective (crcByte r) := by
  intro d d' h
  simp only [crcByte, crcShifts_eq_iterate] at h
  have henter : d.zeroExtend 32 <<< 24 = d'.zeroExtend 32 <<< 24 :=
    (BitVec.xor_right_inj _).1 (crcShift_injective.iterate 8 h)
  refine BitVec.eq_of_getLsbD_eq fun i hi => ?_
  have hplace : i + 24 < 32 := by omega
  simpa [hplace] using congrArg (fun y => y.getLsbD (i + 24)) henter

theorem foldl_crcByte_injective (bytes : List Byte) : Function.Injective fun r => bytes.foldl crcByte r := by
  induction bytes with
  | nil => exact Function.injective_id
  | cons d bytes ih => exact ih.comp (crcByte_left_injective d)

theorem eq_of_getD {bytes bytes' : List Byte} (hlen : bytes'.length = bytes.length)
    (h : ∀ i, bytes'.getD i 0 = bytes.getD i 0) : bytes' = bytes :=
  List.ext_getElem hlen fun i hi' hi => by
    rw [← List.getD_eq_getElem _ 0 hi', ← List.getD_eq_getElem _ 0 hi, h i]

/-- Byte strings of one length that differ in exactly one byte have different CRCs. -/
theorem crcMpeg2_ne_of_one_byte {bytes bytes' : List Byte} (hlen : bytes'.length = bytes.length) {j : Nat}
    (hj : j < bytes.length) (hne : bytes'.getD j 0 ≠ bytes.getD j 0)
    (heq : ∀ i, i ≠ j → bytes'.getD i 0 = bytes.getD i 0) : crcMpeg2 bytes' ≠ crcMpeg2 bytes := by
  rw [crcMpeg2, crcMpeg2]
  generalize crcInit = r
  induction bytes generalizing bytes' j r with
  | nil => cases hj
  | cons d bytes ih =>
    obtain ⟨d', bytes', rfl⟩ := List.exists_of_length_succ bytes' hlen
    replace hlen : bytes'.length = bytes.length := Nat.succ.inj hlen
    cases j with
    | zero =>
      obtain rfl : bytes' = bytes := eq_of_getD hlen fun i => heq (i + 1) (by simp)
      exact fun hcrc => hne (crcByte_right_injective r (foldl_crcByte_injective _ hcrc))
    | succ j =>
      obtain rfl : d' = d := heq 0 (by simp)
      exact ih hlen (Nat.lt_of_succ_lt_succ hj) hne (fun i hi => heq (i + 1) (by simpa using hi)) _

/-! ## The packet and its checksum field (R193, R195) -/

theorem forall_lt_four {p : Nat → Prop} : (∀ n < 4, p n) ↔ p 0 ∧ p 1 ∧ p 2 ∧ p 3 := by
  simp only [Nat.forall_lt_succ_right, Nat.not_lt_zero, false_implies, implies_true, true_and, and_assoc]

theorem extractLsb'_storedCrc (header : List Byte) (off : Nat) {n : Nat} (hn : n < 4) :
    (storedCrc header off).extractLsb' (8 * n) 8 = header.getD (off + n) 0 := by
  rw [storedCrc, le32, extractLsb'_fourBytes _ _ _ _ hn]
  interval_cases n <;> simp [List.getD]

/-- The field holds `v`, least significant byte first. -/
theorem storedCrc_eq_iff {header : List Byte} {off : Nat} {v : Word} :
    storedCrc header off = v ↔ ∀ n < 4, header.getD (off + n) 0 = v.extractLsb' (8 * n) 8 := by
  refine ⟨fun h n hn => h ▸ (extractLsb'_storedCrc header off hn).symm, fun h => ?_⟩
  refine BitVec.eq_of_getLsbD_eq fun i hi => ?_
  have hn : i / 8 < 4 := by omega
  have hbyte := (extractLsb'_storedCrc header off hn).trans (h _ hn)
  simpa [Nat.div_add_mod, Nat.mod_lt] using congrArg (fun b => b.getLsbD (i % 8)) hbyte

section
variable {header header' payload payload' : List Byte} {off i j : Nat} (hoff : off + 4 ≤ header.length)
include hoff

/-- The bytes of a packet, the field read as zeros. -/
theorem getD_packetBytes : (packetBytes header payload off).getD i 0 =
    if i < off ∨ off + 4 ≤ i then (header ++ payload).getD i 0 else 0 := by
  have hparts : packetBytes header payload off =
      (header ++ payload).take off ++ ([0, 0, 0, 0] ++ (header ++ payload).drop (off + 4)) := by
    simp [packetBytes, List.take_append_of_le_length (Nat.le_of_add_right_le hoff), List.drop_append_of_le_length hoff]
  have hlen : ((header ++ payload).take off).length = off :=
    List.length_take_of_le (by rw [List.length_append]; omega)
  rw [hparts]
  obtain hbefore | ⟨k, rfl⟩ := (Nat.lt_or_ge i off).imp_right Nat.exists_eq_add_of_le
  · rw [if_pos (.inl hbefore), List.getD_append _ _ _ _ (by omega)]
    simp [List.getD, hbefore]
  · rw [List.getD_append_right _ _ _ _ (by omega), hlen, Nat.add_sub_cancel_left]
    obtain hfield | ⟨k, rfl⟩ := (Nat.lt_or_ge k 4).imp_right Nat.exists_eq_add_of_le
    · rw [if_neg (by omega), List.getD_append _ _ _ _ hfield]
      interval_cases k <;> rfl
    · rw [if_pos (.inr (by omega)), List.getD_append_right _ _ _ _ (Nat.le_add_right 4 k)]
      simp [List.getD, Nat.add_assoc]

theorem length_packetBytes : (packetBytes header payload off).length = (header ++ payload).length := by
  simp only [packetBytes, List.length_append, List.length_take, List.length_drop, List.length_cons, List.length_nil]
  omega

variable (hheader : header'.length = header.length)
include hheader

theorem storedCrc_eq_storedCrc_iff (payload payload' : List Byte) : storedCrc header' off = storedCrc header off ↔
    ∀ n < 4, (header' ++ payload').getD (off + n) 0 = (header ++ payload).getD (off + n) 0 := by
  refine storedCrc_eq_iff.trans (forall₂_congr fun n hn => ?_)
  rw [extractLsb'_storedCrc _ _ hn, List.getD_append _ _ _ _ (by omega), List.getD_append _ _ _ _ (by omega)]

omit hoff in
theorem getD_append_congr (payload : List Byte) (h : header'.getD i 0 = header.getD i 0) :
    (header' ++ payload).getD i 0 = (header ++ payload).getD i 0 := by
  obtain hi | hi := Nat.lt_or_ge i header.length
  · rw [List.getD_append _ _ _ _ hi, List.getD_append _ _ _ _ (by omega), h]
  · rw [List.getD_append_right _ _ _ _ hi, List.getD_append_right _ _ _ _ (by omega), hheader]

variable (hpayload : payload'.length = payload.length)
include hpayload

/-- The packet CRC sees nothing of the packet but what lies outside the field. -/
theorem packetCrc_congr
    (h : ∀ i, (i < off ∨ off + 4 ≤ i) → (header' ++ payload').getD i 0 = (header ++ payload).getD i 0) :
    packetCrc header' payload' off = packetCrc header payload off := by
  have hoff' : off + 4 ≤ header'.length := hoff.trans_eq hheader.symm
  refine congrArg crcMpeg2 (eq_of_getD ?_ fun i => ?_)
  · simp [length_packetBytes, hoff, hheader, hpayload]
  · rw [getD_packetBytes hoff, getD_packetBytes hoff']
    exact ite_congr rfl (h i) fun _ => rfl

/-- A change of one byte outside the field changes the packet CRC. -/
theorem packetCrc_ne_of_one_byte (hj : j < (header ++ payload).length) (hout : j < off ∨ off + 4 ≤ j)
    (hne : (header' ++ payload').getD j 0 ≠ (header ++ payload).getD j 0)
    (heq : ∀ i, i ≠ j → (header' ++ payload').getD i 0 = (header ++ payload).getD i 0) :
    packetCrc header' payload' off ≠ packetCrc header payload off := by
  have hoff' : off + 4 ≤ header'.length := hoff.trans_eq hheader.symm
  refine crcMpeg2_ne_of_one_byte (j := j) ?_ ?_ ?_ fun i hi => ?_
  · simp [length_packetBytes, hoff, hheader, hpayload]
  · rwa [length_packetBytes hoff]
  · rwa [getD_packetBytes hoff, getD_packetBytes hoff', if_pos hout, if_pos hout]
  · rw [getD_packetBytes hoff, getD_packetBytes hoff', heq i hi]

end

/-! ## A packet in MEM (R65, R197) -/

namespace Memory
variable (m : Memory)

theorem take_readBytes (a : Nat) {k n : Nat} (hk : k ≤ n) : (m.readBytes a n).take k = m.readBytes a k := by
  rw [readBytes, ← List.map_take, List.take_range, Nat.min_eq_left hk, readBytes]

theorem drop_readBytes (a k n : Nat) : (m.readBytes a n).drop k = m.readBytes (a + k) (n - k) :=
  List.ext_getElem (by simp) fun i _ _ => by simp [readBytes, Nat.add_assoc]

variable {m} in
theorem readBytes_congr {m' : Memory} {a n : Nat} (h : ∀ i < n, m'.read (a + i) = m.read (a + i)) :
    m'.readBytes a n = m.readBytes a n := List.map_congr_left fun i hi => h i (List.mem_range.1 hi)

end Memory

/-- What the host stores to fill the field at the address `a` with `v`, least significant byte first (R225). -/
def fieldStores (a : Nat) (v : Word) : List Host.Cell :=
  (List.range 4).map fun n => (a + n, v.extractLsb' (8 * n) 8)

section
variable {m : Memory} (hm : m.wf = true) (a : Nat) (v : Word)
include hm

theorem read_fieldStores {n : Nat} (hn : n < 4) :
    (m.storeAll (fieldStores a v)).read (a + n) = v.extractLsb' (8 * n) 8 := by
  refine Memory.read_storeAll_of_agree hm (List.mem_map_of_mem (List.mem_range.2 hn)) fun w hw => ?_
  obtain ⟨k, -, hk⟩ := List.mem_map.1 hw
  obtain ⟨haddr, rfl⟩ := Prod.mk.inj hk
  rw [Nat.add_left_cancel haddr]

theorem read_fieldStores_of_outside {b : Nat} (hb : b < a ∨ a + 4 ≤ b) :
    (m.storeAll (fieldStores a v)).read b = m.read b := by
  refine Memory.read_storeAll_of_not_mem hm fun c hc => ?_
  obtain ⟨n, hn, rfl⟩ := List.mem_map.1 hc
  have hn := List.mem_range.1 hn
  dsimp only
  omega

variable {P L off : Nat} (hoff : off + 4 ≤ L)
include hoff

theorem storedCrc_fieldStores : storedCrc ((m.storeAll (fieldStores (P + off) v)).readBytes P L) off = v := by
  refine storedCrc_eq_iff.2 fun n hn => ?_
  rw [Memory.getD_readBytes (by omega), ← Nat.add_assoc]
  exact read_fieldStores hm _ v hn

/-- Filling the field does not change the CRC that belongs there, if the payload lies apart. -/
theorem packetCrc_fieldStores {A M : Nat} (hapart : M = 0 ∨ A + M ≤ P + off ∨ P + off + 4 ≤ A) :
    packetCrc ((m.storeAll (fieldStores (P + off) v)).readBytes P L)
      ((m.storeAll (fieldStores (P + off) v)).readBytes A M) off =
    packetCrc (m.readBytes P L) (m.readBytes A M) off := by
  have hpayload : (m.storeAll (fieldStores (P + off) v)).readBytes A M = m.readBytes A M :=
    Memory.readBytes_congr fun i hi => read_fieldStores_of_outside hm _ v (by omega)
  rw [hpayload]
  refine packetCrc_congr (by simpa using hoff) (by simp) rfl fun i hi => getD_append_congr (by simp) _ ?_
  obtain hin | hpast := Nat.lt_or_ge i L
  · rw [Memory.getD_readBytes hin, Memory.getD_readBytes hin]
    exact read_fieldStores_of_outside hm _ v (by omega)
  · rw [List.getD_eq_default _ _ (by simpa using hpast), List.getD_eq_default _ _ (by simpa using hpast)]

end

/-! ## How the commands end (R192, R194, R196) -/

theorem crc32c_eq (data : List Byte) (seed : Word) :
    crc32c data seed = crcMpeg2 ((if seed = 0 then [] else leBytes seed) ++ data) := by
  rw [crc32c]
  split <;> rfl

section
variable {s t : State} {code : ErrCode}

theorem exec_crc32_of_bufFits (h : s.bufFits = true) :
    exec .crc32 s = .next (done (s.setResult (crc32c s.bufBytes s.operands.crcSeed))) := if_pos h

theorem exec_crc32_of_not_bufFits (h : ¬s.bufFits = true) : exec .crc32 s = .next (fail .addr s) := if_neg h

/-- The message of R193, read from `MEM` in pieces. -/
theorem State.packetCrc_eq (hfield : s.crcOffset + 4 ≤ s.bufLen) : packetCrc s.bufBytes s.auxBytes s.crcOffset =
    crcMpeg2 (s.mem.readBytes s.bufPtr s.crcOffset ++ [0, 0, 0, 0]
      ++ s.mem.readBytes (s.bufPtr + (s.crcOffset + 4)) (s.bufLen - (s.crcOffset + 4)) ++ s.auxBytes) := by
  rw [packetCrc, packetBytes, bufBytes, Memory.take_readBytes _ _ (Nat.le_of_add_right_le hfield),
    Memory.drop_readBytes]

theorem State.storedCrc_eq_iff (hfield : s.crcOffset + 4 ≤ s.bufLen) {v : Word} :
    storedCrc s.bufBytes s.crcOffset = v ↔
      ∀ n < 4, s.mem.read (s.bufPtr + s.crcOffset + n) = v.extractLsb' (8 * n) 8 := by
  refine Machine.storedCrc_eq_iff.trans (forall₂_congr fun n hn => ?_)
  rw [bufBytes, Memory.getD_readBytes (by omega), Nat.add_assoc]

theorem exec_pktcrc_of_checks_pass (h : packetCheck s = none) :
    exec .pktcrc s = .next (done (s.setResult (packetCrc s.bufBytes s.auxBytes s.crcOffset))) := by
  simp [exec, execPktcrc, h]

theorem exec_pktcrc_of_check_fails (h : packetCheck s = some code) : exec .pktcrc s = .next (fail code s) := by
  simp [exec, execPktcrc, h]

theorem exec_pktvfy_of_checks_pass (h : packetCheck s = none) :
    exec .pktvfy s = .next (done (s.setResult
      (if storedCrc s.bufBytes s.crcOffset = packetCrc s.bufBytes s.auxBytes s.crcOffset then 1 else 0))) := by
  simp [exec, execPktvfy, h]

theorem exec_pktvfy_of_check_fails (h : packetCheck s = some code) :
    exec .pktvfy s = .next (fail code (s.setResult 0)) := by
  simp [exec, execPktvfy, h]

variable (s) in
/-- The checks as the rule writes their conditions. -/
theorem packetCheck_eq : packetCheck s =
    if s.operands.crcSize ≠ 4#32 then some .config
    else if s.bufLen < s.crcOffset + 4 then some .bounds
    else if s.memSize < s.bufPtr + s.bufLen ∨ 0 < s.auxLen ∧ s.memSize < s.auxPtr + s.auxLen then some .addr
    else none := by
  simp only [packetCheck, State.auxFits, Bool.not_eq_true', rangeFits_eq_false_iff, ite_or]

/-- All the checks pass, in the words of the rule. -/
theorem packetCheck_passes (hsize : s.operands.crcSize = 4#32) (hfield : s.crcOffset + 4 ≤ s.bufLen)
    (hheader : s.bufPtr + s.bufLen ≤ s.memSize) (hpayload : s.auxLen = 0 ∨ s.auxPtr + s.auxLen ≤ s.memSize) :
    packetCheck s = none := by
  rw [packetCheck_eq, if_neg (not_not.2 hsize), if_neg (by omega), if_neg (by omega)]

theorem packetCheck_of_pktcrc_succeeds (h : exec .pktcrc s = .next t) (hok : t.status.err = .ok) :
    packetCheck s = none := by
  cases hcheck : packetCheck s with
  | none => rfl
  | some code =>
    rw [exec_pktcrc_of_check_fails hcheck] at h
    cases h
    exact absurd (hcheck.trans (congrArg some hok)) packetCheck_ne_ok

end

/-! ## The obligations -/

/-- Settles O32: the only check is that of R55 on the byte buffer. -/
theorem crcWritesTheSeededCrcOfTheBuffer : Obligations.CrcWritesTheSeededCrcOfTheBuffer := by
  rintro s P L seed rfl rfl rfl
  refine ⟨fun hfits => ?_, fun hpast => exec_crc32_of_not_bufFits ?_⟩
  · rw [exec_crc32_of_bufFits (bufFits_iff.2 hfits), crc32c_eq]
    rfl
  · exact Bool.eq_false_iff.1 (rangeFits_eq_false_iff.2 hpast)

/-- Settles O33: byte-wise by definition, bit by bit because shifting is linear. -/
theorem crcIsTheMpeg2Register : Obligations.CrcIsTheMpeg2Register := by
  refine ⟨fun bytes => ?_, fun bytes => ?_, rfl, by decide +kernel⟩
  · exact congrArg (fun step => bytes.foldl step crcInit)
      (funext fun r => funext fun d => crcShifts_eq_iterate 8 (r ^^^ (d.zeroExtend 32 <<< 24)))
  · rw [List.foldl_flatMap]
    exact congrArg (fun step => bytes.foldl step crcInit) (funext fun r => funext (crcByte_eq_foldl r))

/-- Settles O34: the message is put together from reads of `MEM`. -/
theorem pktcrcWritesThePacketCrc : Obligations.PktcrcWritesThePacketCrc := by
  rintro s P L A M off rfl rfl rfl rfl rfl hsize hfield hheader hpayload
  rw [exec_pktcrc_of_checks_pass (packetCheck_passes hsize hfield hheader hpayload), State.packetCrc_eq hfield]
  rfl

/-- Settles O35: the stored word is the packet CRC exactly if its four bytes are. -/
theorem pktvfyComparesTheStoredCrc : Obligations.PktvfyComparesTheStoredCrc := by
  rintro s P L A M off crc rfl rfl rfl rfl rfl hcrc hsize hfield hheader hpayload
  have hpacket : packetCrc s.bufBytes s.auxBytes s.crcOffset = crc := (State.packetCrc_eq hfield).trans hcrc.symm
  refine ⟨_, exec_pktvfy_of_checks_pass (packetCheck_passes hsize hfield hheader hpayload), ?_, ?_⟩
  · split_ifs <;> simp
  · rw [hpacket, State.setResult_result]
    calc _ ↔ storedCrc s.bufBytes s.crcOffset = crc := by simp
      _ ↔ ∀ n < 4, s.mem.read (s.bufPtr + s.crcOffset + n) = crc.extractLsb' (8 * n) 8 :=
        State.storedCrc_eq_iff hfield
      _ ↔ _ := forall_lt_four

/-- Settles O36: both commands end with what `packetCheck` answers. -/
theorem packetCommandsReportTheFirstCause : Obligations.PacketCommandsReportTheFirstCause := by
  rintro s P L A M off code rfl rfl rfl rfl rfl hcause
  have hcheck : packetCheck s = some code := by
    rw [packetCheck_eq]
    obtain ⟨hsize, rfl⟩ | ⟨hsize, hfield, rfl⟩ | ⟨hsize, hfield, hrange, rfl⟩ := hcause
    · exact if_pos hsize
    · exact (if_neg (not_not.2 hsize)).trans (if_pos hfield)
    · exact (if_neg (not_not.2 hsize)).trans ((if_neg hfield.not_gt).trans (if_pos hrange))
  exact ⟨exec_pktcrc_of_check_fails hcheck, exec_pktvfy_of_check_fails hcheck⟩

/-- Settles O37: the message has zeros where the field stands. -/
theorem checksumFieldDoesNotInfluenceThePacketCrc : Obligations.ChecksumFieldDoesNotInfluenceThePacketCrc :=
  fun _ _ payload _ hlen hoff h => packetCrc_congr hoff hlen rfl fun i hi => getD_append_congr hlen payload (h i hi)

/-- Settles O38: the host's four stores fill the field and leave the packet CRC as it was. -/
theorem storedPacketCrcVerifies : Obligations.StoredPacketCrcVerifies := by
  rintro s t a m hm hexec hok rfl hapart rfl
  have hcheck := packetCheck_of_pktcrc_succeeds hexec hok
  obtain ⟨-, hfield, -, -⟩ := packetCheck_none.1 hcheck
  rw [exec_pktcrc_of_checks_pass hcheck] at hexec
  cases hexec
  refine (exec_pktvfy_of_checks_pass (by exact hcheck)).trans ?_
  rw [if_pos]
  · rfl
  · exact (storedCrc_fieldStores hm _ hfield).trans (packetCrc_fieldStores hm _ hfield hapart).symm

/-- Settles O39: a change in the field changes the stored word only, any other change the packet CRC only. -/
theorem oneChangedByteFailsVerification : Obligations.OneChangedByteFailsVerification := by
  intro header payload header' payload' off j hoff hheader hpayload hverifies hj hne heq hverifies'
  have hstored := storedCrc_eq_storedCrc_iff hoff hheader payload payload'
  by_cases hfield : j < off ∨ off + 4 ≤ j
  · have hkept : storedCrc header' off = storedCrc header off := hstored.2 fun n _ => heq _ (by omega)
    refine packetCrc_ne_of_one_byte hoff hheader hpayload hj hfield hne heq ?_
    rw [← hverifies', hkept, hverifies]
  · have hkept : packetCrc header' payload' off = packetCrc header payload off :=
      packetCrc_congr hoff hheader hpayload fun i hi => heq i fun hij => hfield (hij ▸ hi)
    obtain ⟨n, rfl⟩ := Nat.exists_eq_add_of_le (show off ≤ j by omega)
    exact hne (hstored.1 (by rw [hverifies', hkept, hverifies]) n (by omega))

end Sys2Proof.Machine
end

section
/-! NOP and CLRERR (46_control.md): which part of `STATUS` each writes, and that every command ends (R210 to R212). -/

namespace Sys2Proof.Machine

theorem exec_nop (s : State) : exec .nop s = .next (done s) := rfl

theorem exec_clrerr (s : State) : exec .clrerr s = .next (done (s.setStatus s.status.clearSticky)) := rfl

/-! ## The obligations -/

/-- Settles O8: `NOP` is `done()` alone, and `done()` writes the code and no flag. -/
theorem nopClearsOnlyTheCode : Obligations.NopClearsOnlyTheCode := exec_nop

/-- Settles O9: `clearSticky` and `done()` each write one field of `STATUS`. -/
theorem clrerrClearsCodeAndSticky : Obligations.ClrerrClearsCodeAndSticky := exec_clrerr

/-- Settles O40: forgets in which of the listed ways the command ends. -/
theorem everyCommandEnds : Obligations.EveryCommandEnds := fun i s =>
  let ⟨t, ht, _⟩ := exec_ends s i
  ⟨t, ht⟩

end Sys2Proof.Machine
end

section
/-! The host software (48_host_functions.md): the framer on whole packets (R220, R222) and the hex rendering of a digest
(R224). -/

namespace Sys2Proof.Machine

/-! ## The framer (R220) -/

/-- The number read at the start of a string is in its first four bytes. -/
theorem le32_append {bytes : List Byte} (h : 4 ≤ bytes.length) (more : List Byte) :
    le32 (bytes ++ more) = le32 bytes := by
  have hbyte : ∀ n < 4, (bytes ++ more).getD n 0 = bytes.getD n 0 := fun n hn => List.getD_append _ _ _ _ (by omega)
  rw [le32, hbyte 0 (by decide), hbyte 1 (by decide), hbyte 2 (by decide), hbyte 3 (by decide), le32]

section
variable {magicId : Word} {size : Nat} {trailing : List Byte}

/-- The walk takes a whole packet off the front and goes on behind it. -/
theorem walkPackets_append {packet : List Byte} (hlen : packet.length = size) (hsize : 4 ≤ size)
    (hmagic : le32 packet = magicId) (fuel : Nat) (more : List Byte) :
    walkPackets magicId size (fuel + 1) (packet ++ more) = packet :: walkPackets magicId size fuel more := by
  subst hlen
  rw [walkPackets, if_pos ⟨by simp, (le32_append hsize more).trans hmagic⟩, List.take_left, List.drop_left]

/-- The walk stops where no whole packet begins. -/
theorem walkPackets_of_no_packet (h : size ≤ trailing.length → le32 trailing ≠ magicId) (fuel : Nat) :
    walkPackets magicId size fuel trailing = [] := by
  cases fuel with
  | zero => rfl
  | succ fuel => exact if_neg fun ⟨hle, hmagic⟩ => h hle hmagic

/-- With fuel for all of them, the walk returns the whole packets at the start. -/
theorem walkPackets_flatten (hsize : 4 ≤ size) (htrailing : size ≤ trailing.length → le32 trailing ≠ magicId)
    {packets : List (List Byte)} (hpackets : ∀ p ∈ packets, p.length = size ∧ le32 p = magicId) {fuel : Nat}
    (hfuel : packets.length ≤ fuel) : walkPackets magicId size fuel (packets.flatten ++ trailing) = packets := by
  induction packets generalizing fuel with
  | nil => exact walkPackets_of_no_packet htrailing fuel
  | cons packet packets ih =>
    obtain ⟨⟨hlen, hmagic⟩, hrest⟩ := List.forall_mem_cons.1 hpackets
    obtain ⟨fuel, rfl⟩ := Nat.exists_eq_add_of_le' hfuel
    rw [List.flatten_cons, List.append_assoc, List.length_cons, ← Nat.add_assoc,
      walkPackets_append hlen hsize hmagic, ih hrest (Nat.le_add_left _ _)]

end

/-- There are no more non-empty strings than bytes in them. -/
theorem length_le_length_flatten {packets : List (List Byte)} (h : ∀ p ∈ packets, 1 ≤ p.length) :
    packets.length ≤ packets.flatten.length := by
  rw [List.length_flatten]
  simpa using List.length_le_sum_of_one_le (packets.map List.length) (by simpa using h)

/-! ## The hex rendering (R224) -/

theorem hexRender_cons (d : Byte) (digest : List Byte) :
    hexRender (d :: digest) =
      shaCharacters.getD (d.toNat >>> 4) '0' :: shaCharacters.getD (d.toNat &&& 15) '0' :: hexRender digest := rfl

theorem length_hexRender (digest : List Byte) : (hexRender digest).length = 2 * digest.length := by
  induction digest with
  | nil => rfl
  | cons d digest ih => simp [hexRender_cons, ih, Nat.mul_add]

/-- A digit is one of the sixteen, so it does not matter what `getD` answers outside them. -/
theorem getD_shaCharacters {k : Nat} (hk : k < 16) (z : Char) :
    shaCharacters.getD k '0' = "0123456789abcdef".toList.getD k z := by
  have hchars : "0123456789abcdef".toList = shaCharacters := by decide
  rw [hchars, List.getD_eq_getElem _ _ hk, List.getD_eq_getElem _ _ hk]

/-- The rendering byte by byte: each byte is two characters, the high nibble first (R224). -/
theorem getD_hexRender {digest : List Byte} {n : Nat} (hn : n < digest.length) (z : Char) :
    (hexRender digest).getD (2 * n) z = "0123456789abcdef".toList.getD ((digest.getD n 0).toNat / 16) z ∧
    (hexRender digest).getD (2 * n + 1) z = "0123456789abcdef".toList.getD ((digest.getD n 0).toNat % 16) z := by
  induction digest generalizing n with
  | nil => cases hn
  | cons d digest ih =>
    rw [hexRender_cons]
    cases n with
    | zero =>
      have hhigh : d.toNat >>> 4 = d.toNat / 16 := Nat.shiftRight_eq_div_pow _ 4
      have hlow : d.toNat &&& 15 = d.toNat % 16 := Nat.and_two_pow_sub_one_eq_mod _ 4
      rw [hhigh, hlow]
      exact ⟨getD_shaCharacters (by have := d.isLt; omega) z, getD_shaCharacters (Nat.mod_lt _ (by decide)) z⟩
    | succ n => exact ih (Nat.lt_of_succ_lt_succ hn)

/-! ## The obligations -/

/-- Settles O59: the walk takes the packets one by one, and the length of the string is fuel for all of them. -/
theorem framerReturnsTheWholePackets : Obligations.FramerReturnsTheWholePackets := by
  intro pc packets trailing size hsize hmin hpackets htrailing
  have hcount : packets.length ≤ packets.flatten.length :=
    length_le_length_flatten fun p hp => by
      obtain ⟨hlen, -⟩ := hpackets p hp
      omega
  have hfuel : packets.length ≤ (packets.flatten ++ trailing).length := hcount.trans (by simp)
  rw [extractPackets, ← hsize]
  exact (if_neg (by omega)).trans (congrArg some (walkPackets_flatten (by omega) htrailing hpackets hfuel))

/-- Settles O60: two characters for a byte, by induction on the bytes. -/
theorem hexRendersHighNibbleFirst : Obligations.HexRendersHighNibbleFirst := fun digest hlen =>
  ⟨by rw [length_hexRender, hlen], fun _ hn => getD_hexRender (hlen ▸ hn)⟩

end Sys2Proof.Machine
end

section
/-! What a failing command changes (60_exceptions.md, R243). -/

namespace Sys2Proof.Machine

/-! ## The obligations -/

/-- Settles O41, for each of the four ways in which a command fails. -/
theorem failingCommandChangesOnlyTheStatus : Obligations.FailingCommandChangesOnlyTheStatus := by
  intro i s t h herr
  cases commandEnds_of_exec h with
  | noTables _ hT =>
    obtain ⟨htables, -⟩ := usableTables_none hT
    exact ⟨rfl, .inr ⟨rfl, rfl, htables⟩, .inl rfl, .inl rfl, rfl⟩
  | failedWithTables _ hT =>
    refine ⟨rfl, .inl rfl, ?_, .inl rfl, rfl⟩
    obtain htables | ⟨hnone, -, hlegal, rfl⟩ := usableTables_some hT
    · exact .inl htables.symm
    · exact .inr ⟨hnone, hlegal, rfl⟩
  | failed => exact ⟨rfl, .inl rfl, .inl rfl, .inl rfl, rfl⟩
  | pktvfyFailed => exact ⟨rfl, .inl rfl, .inl rfl, .inr ⟨rfl, rfl⟩, rfl⟩
  | _ => exact absurd rfl herr

end Sys2Proof.Machine
end

section
/-! The reset input, between commands and cutting one short (R270), and that the machine stops on no move the spec
defines (R280). -/

namespace Sys2Proof.Machine

/-! ## A selection of the stores (R270, U3) -/

theorem Memory.storeAll_concat (stores : List Host.Cell) (c : Host.Cell) (m : Memory) :
    storeAll (stores ++ [c]) m = (storeAll stores m).write c.1 c.2 := by
  simp [storeAll]

/-- If the stores to selected addresses are made, a selected address reads as after all of them, another as before. -/
theorem Memory.read_storeAll_filter {m : Memory} (hm : wf m = true) (stores : List Host.Cell) (landed : Nat → Bool)
    (a : Nat) :
    read (storeAll (stores.filter fun c => landed c.1) m) a =
      if landed a = true then read (storeAll stores m) a else read m a := by
  induction stores using List.reverseRecOn with
  | nil => simp [storeAll]
  | append_singleton stores c ih =>
    rw [List.filter_append, List.filter_singleton, storeAll_concat, read_write (wf_storeAll hm)]
    cases hc : landed c.1 with
    | true =>
      rw [cond_true, storeAll_concat, read_write (wf_storeAll hm), ih]
      by_cases ha : a = c.1 <;> simp [ha, hc]
    | false =>
      rw [cond_false, List.append_nil, ih]
      by_cases ha : a = c.1 <;> simp [ha, hc]

/-! ## The stores of a whole command (R21) -/

section
variable {wrongLen : Bool} {storesOf : State → Tables → List Host.Cell} {s s' u : State}

/-- A plan that fails has not touched `MEM` (R243). -/
theorem framePlan_error_mem (h : framePlan wrongLen storesOf s = .error s') : s'.mem = s.mem := by
  obtain ⟨-, rfl⟩ | ⟨T, code, -, -, rfl⟩ := framePlan_error h <;> rfl

/-- A plan to store has not touched `MEM` yet. -/
theorem framePlan_ok_mem {stores : List Host.Cell} (h : framePlan wrongLen storesOf s = .ok (s', stores)) :
    s'.mem = s.mem := by
  obtain ⟨T, -, rfl, -⟩ := framePlan_ok h
  rfl

/-- A command that runs to its end makes exactly the stores it is said to make. -/
theorem exec_mem {i : Instr} (h : exec i s = .next u) : u.mem = s.mem.storeAll (plannedStores i s) := by
  cases i with
  | encf | decf =>
    simp only [exec, execEncf, execDecf] at h
    split at h
    · next hplan =>
      cases h
      simp only [plannedStores, hplan]
      exact framePlan_error_mem hplan
    · next hplan =>
      cases h
      simp only [plannedStores, hplan]
      exact congrArg (Memory.storeAll _) (framePlan_ok_mem hplan)
  | _ => exact (commandEnds_of_exec h).mem.resolve_right fun ⟨hi, _⟩ => by simp at hi

end

/-! ## The moves the spec defines (R280) -/

section
variable {s : State}

theorem issueCommand_next (c : Word) : ∃ t, issueCommand c s = .next t := by
  rw [issueCommand]
  split
  · next i _ => exact everyCommandEnds i s
  · exact ⟨_, rfl⟩

theorem hostWrite_next {offset : RegOffset} (h4 : offset.toNat % 4 = 0) (v : Word) :
    ∃ t, hostWrite .word offset v s = .next t := by
  obtain ⟨r, hr⟩ := exists_reg_of_aligned h4
  by_cases hcmd : r = .cmd
  · subst hcmd
    rw [hostWrite_cmd hr]
    exact issueCommand_next v
  · exact ⟨_, hostWrite_reg hr hcmd⟩

theorem hostRead_next {offset : RegOffset} (h4 : offset.toNat % 4 = 0) : ∃ t, hostRead .word offset s = .next t := by
  obtain ⟨r, hr⟩ := exists_reg_of_aligned h4
  exact ⟨_, hostRead_reg hr⟩

/-- A move the spec defines is performed. -/
theorem perform_next {a : HostAction} (h : a.defined s.memSize = true) : ∃ t, perform a s = .next t := by
  cases a with
  | write width offset v =>
    obtain ⟨rfl, h4⟩ : width = .word ∧ offset.toNat % 4 = 0 := by simpa [HostAction.defined] using h
    exact hostWrite_next h4 v
  | read width offset =>
    obtain ⟨rfl, h4⟩ : width = .word ∧ offset.toNat % 4 = 0 := by simpa [HostAction.defined] using h
    exact hostRead_next h4
  | memWrite address v => exact ⟨_, if_pos (of_decide_eq_true h)⟩
  | memRead address => exact ⟨_, if_pos (of_decide_eq_true h)⟩
  | reset => exact ⟨_, rfl⟩
  | cutCommand c => exact ⟨_, rfl⟩

end

/-! ## The obligations -/

/-- Settles O50: the move is `resetBlock`, which keeps `MEM`, the build and the model's own fields. -/
theorem resetInputKeepsOnlyMem : Obligations.ResetInputKeepsOnlyMem := fun _ _ hhost => step_cons hhost

/-- Settles O51: the stores that land are those to the addresses the free value selects. -/
theorem cutCommandLeavesOldOrNewBytes : Obligations.CutCommandLeavesOldOrNewBytes := by
  intro s rest c hm hhost
  have hread := Memory.read_storeAll_filter hm (wordStores c (s.setHost rest)) (Config.storeLanded s.freeCount)
  refine ⟨_, step_cons hhost, fun e hdec a => ?_, fun i u hdec hexec a => ?_⟩
  · have hnone : wordStores c (s.setHost rest) = [] := by simp [wordStores, hdec]
    simp [hnone, Memory.storeAll]
  · have hstores : wordStores c (s.setHost rest) = plannedStores i (s.setHost rest) := by simp [wordStores, hdec]
    refine (hread a).trans ?_
    rw [hstores, exec_mem hexec]
    rfl

/-- Settles O52, move by move of the host. -/
theorem definedMovesNeverStopTheMachine : Obligations.DefinedMovesNeverStopTheMachine := by
  intro s hdefined
  cases hhost : s.host with
  | nil => exact ⟨s, step_nil hhost⟩
  | cons a rest =>
    rw [step_cons hhost]
    exact perform_next (hdefined a rest hhost)

end Sys2Proof.Machine
end
